-- ==== Sys2Proof/Word.lean ====
section
/-! DEFINITION. The words MD5CORE computes on: 32-bit words, bytes, the four-word groups (state register file and
working registers) and the sixteen-word block (spec/00_scope.md R6, R9; spec/10_state.md R21, R23, R24). -/

namespace Sys2Proof

/-- A 32-bit unsigned word, the spec's `u32` (R6, R9). -/
abbrev Word := BitVec 32

/-- A byte of a message or of a block (R24, R28). -/
abbrev Byte := BitVec 8

/-- Four words in the spec's order: `H[0]`, `H[1]`, `H[2]`, `H[3]`, "also named A, B, C, D in that order" (R21), and
the working registers `a`, `b`, `c`, `d` (R23). -/
structure Quad where
  a : Word
  b : Word
  c : Word
  d : Word
  deriving DecidableEq, Repr

/-- The block buffer's contents: sixteen words `M[0]` to `M[15]` (R24). -/
abbrev Block := Vector Word 16

end Sys2Proof
end

