-- ==== Sys2Proof/Config.lean ====
section
/-! DEFINITION. What is fixed for one MD5CORE: the parameters of spec/00_scope.md R7 as a record, and the free values
that stand for everything the spec leaves unspecified (spec/93_implementation_defined.md: `any value`). -/

namespace Sys2Proof

/-- The parameters the model takes as an argument (R7). `msgMem`, the fourth, stands in the machine's state. -/
structure Config where
  /-- `ADDR_WIDTH`: width in bits of a message address, legal values 1 to 64. -/
  addrWidth : Nat
  /-- `BASE`: host-bus address of window offset 0x00, aligned to 128 bytes. -/
  base : Nat
  /-- `Latency`: "not modelled"; the unused parameter of R227. -/
  latency : Option Nat
  deriving DecidableEq, Repr

/-- The defaults of R7. DESIGN CHOICE (log 4): BASE, whose default is "platform", is 0. -/
def Config.default : Config := { addrWidth := 32, base := 0, latency := none }

/-- The free value number `n` of `w` bits: what the spec calls a draw. It has no body, so no proof can know a value of
it. `State.draws` counts the draws made, so each is independent of the others (log 6). -/
opaque Config.freeBits (w n : Nat) : BitVec w

/-- What host variable `t` holds before the host program assigns it: the spec is silent (log 10). -/
opaque Config.freeHostVar (t : Nat) : Word

end Sys2Proof
end

