-- ==== Sys2Proof/Machine/Tables.lean ====
section
/-! DEFINITION. The fixed contents of the constant ROMs and the initial value: IV (spec/42_driver.md R150), K, S and g
(spec/40_round_logic.md R106 to R108). "No agent writes them" (spec/10_state.md R38), so they are no state. -/

namespace Sys2Proof.Machine

/-- The initial value IV for `H[0]`, `H[1]`, `H[2]`, `H[3]` (R150). -/
def iv : Quad := { a := 0x67452301, b := 0xEFCDAB89, c := 0x98BADCFE, d := 0x10325476 }

/-- The rows 0 to 3 of R106: `K[0]` to `K[15]`. -/
def kRows0 : List Word :=
  [0xD76AA478, 0xE8C7B756, 0x242070DB, 0xC1BDCEEE] ++
  [0xF57C0FAF, 0x4787C62A, 0xA8304613, 0xFD469501] ++
  [0x698098D8, 0x8B44F7AF, 0xFFFF5BB1, 0x895CD7BE] ++
  [0x6B901122, 0xFD987193, 0xA679438E, 0x49B40821]

/-- The rows 4 to 7 of R106: `K[16]` to `K[31]`. -/
def kRows1 : List Word :=
  [0xF61E2562, 0xC040B340, 0x265E5A51, 0xE9B6C7AA] ++
  [0xD62F105D, 0x02441453, 0xD8A1E681, 0xE7D3FBC8] ++
  [0x21E1CDE6, 0xC33707D6, 0xF4D50D87, 0x455A14ED] ++
  [0xA9E3E905, 0xFCEFA3F8, 0x676F02D9, 0x8D2A4C8A]

/-- The rows 8 to 11 of R106: `K[32]` to `K[47]`. -/
def kRows2 : List Word :=
  [0xFFFA3942, 0x8771F681, 0x6D9D6122, 0xFDE5380C] ++
  [0xA4BEEA44, 0x4BDECFA9, 0xF6BB4B60, 0xBEBFBC70] ++
  [0x289B7EC6, 0xEAA127FA, 0xD4EF3085, 0x04881D05] ++
  [0xD9D4D039, 0xE6DB99E5, 0x1FA27CF8, 0xC4AC5665]

/-- The rows 12 to 15 of R106: `K[48]` to `K[63]`. -/
def kRows3 : List Word :=
  [0xF4292244, 0x432AFF97, 0xAB9423A7, 0xFC93A039] ++
  [0x655B59C3, 0x8F0CCC92, 0xFFEFF47D, 0x85845DD1] ++
  [0x6FA87E4F, 0xFE2CE6E0, 0xA3014314, 0x4E0811A1] ++
  [0xF7537E82, 0xBD3AF235, 0x2AD7D2BB, 0xEB86D391]

/-- The round constants as one list of 64 (R106). -/
def kTable : List Word := kRows0 ++ kRows1 ++ kRows2 ++ kRows3

/-- `K[i]` (R106). The table has 64 entries and `i` is below 64, so the default is never read. -/
def kConst (i : BitVec 6) : Word := kTable.getD i.toNat 0

/-- `S[i] = T[i div 16][i mod 4]`, the left-rotation amount of round `i`, in 5 bits (R107, R38). -/
def sAmount (i : BitVec 6) : BitVec 5 :=
  match i.toNat / 16, i.toNat % 4 with
  | 0, 0 => 7 | 0, 1 => 12 | 0, 2 => 17 | 0, _ => 22
  | 1, 0 => 5 | 1, 1 => 9 | 1, 2 => 14 | 1, _ => 20
  | 2, 0 => 4 | 2, 1 => 11 | 2, 2 => 16 | 2, _ => 23
  | _, 0 => 6 | _, 1 => 10 | _, 2 => 15 | _, _ => 21

/-- `g(i)`, the message-word index of round `i` (R108). -/
def gIndex (i : BitVec 6) : Fin 16 :=
  match i.toNat / 16 with
  | 0 => Fin.ofNat 16 i.toNat
  | 1 => Fin.ofNat 16 (5 * i.toNat + 1)
  | 2 => Fin.ofNat 16 (3 * i.toNat + 5)
  | _ => Fin.ofNat 16 (7 * i.toNat)

end Sys2Proof.Machine
end

