-- ==== Sys2Proof/Syntax.lean ====
section
/-! DEFINITION. The commands of spec/opcode_table.json, the fields of a command word, the names of the window's
registers, and the lines of a host program (spec/30_encoding.md R80 to R87, spec/10_state.md R32). -/

namespace Sys2Proof

/-- The commands: one constructor per row of the opcode table. A command word carries no operand; "Every operand is
implicit and comes from a register" (R83). -/
inductive Instr where
  | nop
  | init
  | transform
  | hash
  deriving DecidableEq, Repr

/-- The two fields of a command word, format CMD-W (R80): `rsv` is bits 31:4, `opc` is bits 3:0. -/
structure CmdW where
  rsv : BitVec 28
  opc : BitVec 4
  deriving DecidableEq, Repr

/-- The registers of the window by name (R32). Reserved slots have no name. -/
inductive Reg where
  | cmd
  | status
  | msgAddrLo
  | msgAddrHi
  | lenLo
  | lenHi
  | state (k : Fin 4)
  | block (n : Fin 16)
  deriving DecidableEq, Repr

/-- A line of a host program (R86). Host variables and labels are named by numbers. The last two are bus accesses
outside that notation: any bus address and any width in bits, which R51 says are supported or not. -/
inductive HostOp where
  /-- `name:` -/
  | label (l : Nat)
  /-- `WR <reg>, <value>` -/
  | wr (r : Reg) (v : Word)
  /-- `RD <reg> -> <t>` -/
  | rd (r : Reg) (t : Nat)
  /-- `BNZ <t>, <mask>, <label>` -/
  | bnz (t : Nat) (mask : Word) (l : Nat)
  /-- `HALT` -/
  | halt
  /-- a bus write of `width` bits at bus address `addr` -/
  | busWr (addr width : Nat) (v : Word)
  /-- a bus read of `width` bits at bus address `addr` into host variable `t` -/
  | busRd (addr width : Nat) (t : Nat)
  deriving DecidableEq, Repr

end Sys2Proof
end

