-- ==== Sys2Proof/Machine/State.lean ====
section
/-! DEFINITION. The machine's state as plain data (spec/10_state.md), the reasons a step can stop, and the state after
reset (R42). -/

namespace Sys2Proof.Machine

/-- The sequencer state `seq`, the block's program counter: one of eight values (R33). -/
inductive Seq where
  | idle
  | nop1
  | init1
  | xstart
  | hstart
  | next
  | round
  | feed
  deriving DecidableEq, Repr

/-- The mode bit (R35): a transform of a TRANSFORM command or of one block of a HASH. -/
inductive Mode where
  | xform
  | hash
  deriving DecidableEq, Repr

/-- The driver phase (R36). -/
inductive Phase where
  | data
  | extra
  | last
  deriving DecidableEq, Repr

/-- A mode from a free bit; every mode is drawn from some bit. -/
def Mode.ofDraw (b : BitVec 1) : Mode := if b = 0 then .xform else .hash

/-- A phase from two free bits; every phase is drawn from some bits. -/
def Phase.ofDraw (b : BitVec 2) : Phase := if b = 0 then .data else if b = 1 then .extra else .last

/-- Who takes the next step (R20): the core, the host, the reset input (R220), or a platform path to message memory
(R28, R67). A platform path makes address `addr` hold `byte`, or no readable byte: at once (`message`), or by a store
(`store`) that the core's reads see only once it becomes visible (`visible`, of the store at position `n` of those not
visible yet; log 26). The list of turns is the model's own form of "Host steps and core steps interleave in any order"
(log 1). -/
inductive Turn where
  | core
  | host
  | reset
  | message (addr : Nat) (byte : Option Byte)
  | store (addr : Nat) (byte : Option Byte)
  | visible (n : Nat)
  deriving DecidableEq, Repr

/-- Everything the machine holds. The fields down to `cfg` are the spec's; then the host's own; the last three are the
model's (INVENTORY.md, State). -/
structure State where
  /-- `H[0..3]`, the state register file (R21). -/
  h : Quad
  /-- `a, b, c, d`, the working registers (R23). -/
  w : Quad
  /-- `M[0..15]`, the block buffer (R24). -/
  m : Block
  /-- MSG_ADDR (R27). -/
  msgAddr : BitVec 64
  /-- LEN (R29). -/
  len : BitVec 64
  /-- STATUS.BUSY (R31). -/
  busy : Bool
  /-- STATUS.ERR, three bits (R31, R190). -/
  err : BitVec 3
  /-- STATUS.BWERR (R31, R195). -/
  bwerr : Bool
  /-- `seq` (R33). -/
  seq : Seq
  /-- the round counter `i`, 6 bits (R34). -/
  i : BitVec 6
  /-- `mode` (R35). -/
  mode : Mode
  /-- `phase` (R36). -/
  phase : Phase
  /-- the latch `mbase` (R37). -/
  mbase : BitVec 64
  /-- the latch `mlen` (R37). -/
  mlen : BitVec 64
  /-- the latch `off`, "held in 65 bits" (R37). -/
  off : BitVec 65
  /-- MsgMem, a partial map as a list of cells with strictly rising addresses; an unlisted address holds no byte, and
  its read fails (R28, R58). -/
  msgMem : List Host.Cell
  /-- stores that platform paths have made and that are not yet "visible to the core's message reads" (R67), oldest
  first (log 26). -/
  pendingStores : List (Nat × Option Byte)
  /-- the parameters (R7); no step changes them. -/
  cfg : Config
  /-- the host program (R86). -/
  hostProg : List HostOp
  /-- the index of the host program's next line. -/
  hostPc : Nat
  /-- the host variables that have been assigned, by strictly rising number (R86). -/
  hostVars : List (Nat × Word)
  /-- who moves next; when empty, the eager schedule (log 1). -/
  turns : List Turn
  /-- the number of free values drawn (log 6). -/
  draws : Nat
  /-- the message duty of the running HASH was broken (R67, U4, log 9). -/
  msgDisturbed : Bool
  deriving DecidableEq, Repr

/-- Why a step stops with a fault. -/
inductive Fault where
  /-- Raised by a host read of STATUS whose ERR field holds a reserved code 4 to 7: "`fault` if ever seen: no rule
  produces them" (U6, R190). Safe: the machine stops where the spec gives no behaviour. -/
  | reservedErrCode (code : BitVec 3)
  deriving DecidableEq, Repr

/-- Why a step is refused. -/
inductive Refusal where
  /-- Raised by an arm of `exec` whose instruction has no meaning yet; no arm is such. Safe. -/
  | notModelled (mnemonic : String)
  /-- Raised by a host access to the window that is not 32 bits wide at an offset that is a multiple of 4 (R51, U1): the
  model "records a refusal naming the access and takes no other step". Safe. -/
  | unsupportedAccess (write : Bool) (addr width : Nat)
  /-- Raised by a BNZ of the host program whose label no line defines; the notation (R86) gives it no meaning. Safe. -/
  | unknownLabel (l : Nat)
  deriving DecidableEq, Repr

/-- MD5CORE right after reset (R42), with the default parameters, an empty message memory and no host program. The
hidden registers are "unspecified", "a free draw": each is a free value (DESIGN CHOICE, log 7). -/
def State.reset : State where
  h := iv
  w := { a := Config.freeBits 32 0, b := Config.freeBits 32 1, c := Config.freeBits 32 2, d := Config.freeBits 32 3 }
  m := Vector.replicate 16 0
  msgAddr := 0
  len := 0
  busy := false
  err := 0
  bwerr := false
  seq := .idle
  i := Config.freeBits 6 4
  mode := Mode.ofDraw (Config.freeBits 1 5)
  phase := Phase.ofDraw (Config.freeBits 2 6)
  mbase := Config.freeBits 64 7 &&& BitVec.ofNat 64 (2 ^ Config.default.addrWidth - 1)
  mlen := Config.freeBits 64 8
  off := Config.freeBits 65 9
  msgMem := []
  pendingStores := []
  cfg := Config.default
  hostProg := []
  hostPc := 0
  hostVars := []
  turns := []
  draws := 10
  msgDisturbed := false

end Sys2Proof.Machine
end

