-- ==== Sys2Proof/Machine/Ops.lean ====
section
/-! DEFINITION. The named operations over memory, registers and commands that every meaning is built from: sparse maps,
message reads (spec/20_memory.md R58, spec/42_driver.md R175), free values, taking and ending a command (R153), the
errors (spec/60_exceptions.md R190 to R195) and reset (spec/70_reset_and_hazards.md R220). MD5CORE "has no trap
mechanism" (R197) and "no trap return" (R198): an error is a STATUS update, and the one that ends a command is
`raiseBusError`. -/

namespace Sys2Proof.Machine

/-! ## Sparse maps: lists of keyed cells with strictly rising keys -/

/-- What the map holds at `k`. -/
def Cells.lookup {β : Type} (k : Nat) : List (Nat × β) → Option β
  | [] => none
  | c :: rest => if c.1 = k then some c.2 else Cells.lookup k rest

/-- The map with `b` at `k`, in its place in the rising order. -/
def Cells.insert {β : Type} (k : Nat) (b : β) : List (Nat × β) → List (Nat × β)
  | [] => [(k, b)]
  | c :: rest =>
    if k < c.1 then (k, b) :: c :: rest
    else if c.1 = k then (k, b) :: rest
    else c :: Cells.insert k b rest

/-- The map with nothing at `k`. -/
def Cells.erase {β : Type} (k : Nat) : List (Nat × β) → List (Nat × β)
  | [] => []
  | c :: rest => if c.1 = k then rest else c :: Cells.erase k rest

/-- The canonical form: each key is above `lo`, the one before it. -/
def Cells.risingFrom {β : Type} : Option Nat → List (Nat × β) → Bool
  | _, [] => true
  | none, c :: rest => Cells.risingFrom (some c.1) rest
  | some lo, c :: rest => decide (lo < c.1) && Cells.risingFrom (some c.1) rest

/-! ## The message address space (R28, R58) -/

/-- The canonical form of a message memory of `width`-bit addresses: keys strictly rising, all below `2^width`. No cell
can equal what an unlisted address reads as, since that is no byte. -/
def Memory.wf (width : Nat) (mem : List Host.Cell) : Bool :=
  Cells.risingFrom none mem && mem.all (fun c => decide (c.1 < 2 ^ width))

/-- A platform path makes address `addr` hold `byte`, or no readable byte (R28). There is no message address at or
above `2^width`, so nothing changes there. -/
def Memory.set (width addr : Nat) (byte : Option Byte) (mem : List Host.Cell) : List Host.Cell :=
  if addr < 2 ^ width then
    match byte with
    | some b => Cells.insert addr b mem
    | none => Cells.erase addr mem
  else mem

/-- `MemRead(addr, 1)` (R58): the byte MsgMem holds, or a failed read. -/
def memRead (s : State) (addr : Nat) : Option Byte :=
  if addr < 2 ^ s.cfg.addrWidth then Cells.lookup addr s.msgMem else none

/-- `ReadBytes(addr, n)` (R175): `n` byte reads in ascending order, failing at the first that fails. -/
def readBytes (s : State) (addr : Nat) : Nat → Option (List Byte)
  | 0 => some []
  | n + 1 =>
    match memRead s addr with
    | none => none
    | some b =>
      match readBytes s (addr + 1) n with
      | none => none
      | some bs => some (b :: bs)

/-! ## Register parts -/

/-- `H[k]` of the four words (R21). -/
def Quad.getWord (q : Quad) (k : Fin 4) : Word :=
  match k with
  | 0 => q.a
  | 1 => q.b
  | 2 => q.c
  | 3 => q.d

/-- `H[k] <- v` (R21). -/
def Quad.setWord (q : Quad) (k : Fin 4) (v : Word) : Quad :=
  match k with
  | 0 => { q with a := v }
  | 1 => { q with b := v }
  | 2 => { q with c := v }
  | 3 => { q with d := v }

/-- Bits 31:0 of a 64-bit register (R27, R29). -/
def loHalf (x : BitVec 64) : Word := x.extractLsb' 0 32

/-- Bits 63:32 of a 64-bit register (R27, R29). -/
def hiHalf (x : BitVec 64) : Word := x.extractLsb' 32 32

/-- `x[31:0] <- v` (R55). -/
def setLo (x : BitVec 64) (v : Word) : BitVec 64 := hiHalf x ++ v

/-- `x[63:32] <- v` (R55). -/
def setHi (x : BitVec 64) (v : Word) : BitVec 64 := v ++ loHalf x

/-- `lowmask(w) = 2^w - 1` as a 64-bit value (R55). -/
def lowmask (width : Nat) : BitVec 64 := BitVec.ofNat 64 (2 ^ width - 1)

/-! ## Free values -/

/-- Draw one free 32-bit value: the value, and the state that has drawn it. -/
def drawWord (s : State) : Word × State := (Config.freeBits 32 s.draws, { s with draws := s.draws + 1 })

/-- `H[0..3]` and `M[0..15]` become unspecified: "the model draws four u32 values" and "sixteen" (R193, U3, U4). -/
def drawResults (s : State) : State :=
  { s with
    h := { a := Config.freeBits 32 s.draws, b := Config.freeBits 32 (s.draws + 1),
           c := Config.freeBits 32 (s.draws + 2), d := Config.freeBits 32 (s.draws + 3) }
    m := Vector.ofFn (fun n => Config.freeBits 32 (s.draws + 4 + n.val))
    draws := s.draws + 20 }

/-! ## The message of a HASH (R26, R67) -/

/-- Is a HASH running, from the host step that took it until the core step that clears BUSY (R67)? -/
def hashRunning (s : State) : Bool :=
  s.busy &&
    match s.seq with
    | .hstart => true
    | .next => true
    | .round => s.mode == .hash
    | .feed => s.mode == .hash
    | _ => false

/-- Is `addr` an address of the message, `MSG_ADDR <= addr < MSG_ADDR + LEN` (R26)? -/
def inMessage (s : State) (addr : Nat) : Bool :=
  decide (s.msgAddr.toNat ≤ addr) && decide (addr < s.msgAddr.toNat + s.len.toNat)

/-- Some store to a byte of the message is not yet visible to the core's reads: "Every store that produced them must also
be visible to the core's message reads before the CMD write" (R67). -/
def staleMessage (s : State) : Bool := s.pendingStores.any (fun p => inMessage s p.1)

/-! ## Taking, rejecting and ending a command -/

/-- ERR codes (R190). -/
def errNone : BitVec 3 := 0
def errIllegalCmd : BitVec 3 := 1
def errRange : BitVec 3 := 2
def errBus : BitVec 3 := 3

/-- A host write while BUSY = 1: BWERR is set and "nothing else changes" (R56, R195). -/
def dropWrite (s : State) : State := { s with bwerr := true }

/-- The command is taken and started: BWERR and ERR are cleared, BUSY is set, and `seq` names its first core step
(R153). The model's own mark of a broken message duty starts afresh with it: set if the command is a HASH some of whose
message's stores the core does not see yet (R67, U4, log 9). -/
def startCommand (first : Seq) (s : State) : State :=
  { s with bwerr := false, err := errNone, busy := true, seq := first
           msgDisturbed := first == .hstart && staleMessage s }

/-- The command is taken and rejected with an error code: "Nothing else changes" (R192, R194). -/
def rejectCommand (code : BitVec 3) (s : State) : State := { s with bwerr := false, err := code }

/-- The core's last step of a command: `BUSY <- 0; seq <- IDLE` (R171). -/
def endCommand (s : State) : State := { s with busy := false, seq := .idle }

/-- `raise BusError(addr)` (R193): ERR becomes BUS, `H` and `M` unspecified, and the command ends. The address is not
recorded. -/
def raiseBusError (s : State) : State := endCommand (drawResults { s with err := errBus })

/-! ## Agents other than the core and the host -/

/-- The reset input (R220): every piece of MD5CORE's state takes the value R42 gives, and a running command is
abandoned. The hidden registers are drawn anew. The parameters, the message memory, the host and its schedule are not
MD5CORE's state (log 5). -/
def resetMachine (s : State) : State :=
  { s with
    h := iv
    w := { a := Config.freeBits 32 s.draws, b := Config.freeBits 32 (s.draws + 1),
           c := Config.freeBits 32 (s.draws + 2), d := Config.freeBits 32 (s.draws + 3) }
    m := Vector.replicate 16 0
    msgAddr := 0
    len := 0
    busy := false
    err := errNone
    bwerr := false
    seq := .idle
    i := Config.freeBits 6 (s.draws + 4)
    mode := Mode.ofDraw (Config.freeBits 1 (s.draws + 5))
    phase := Phase.ofDraw (Config.freeBits 2 (s.draws + 6))
    mbase := Config.freeBits 64 (s.draws + 7) &&& lowmask s.cfg.addrWidth
    mlen := Config.freeBits 64 (s.draws + 8)
    off := Config.freeBits 65 (s.draws + 9)
    draws := s.draws + 10
    msgDisturbed := false }

/-- A platform path makes message address `addr` hold `byte` (R28). If that changes a byte of the message of a running
HASH, the duty of R67 is broken, which the state records until the command ends (U4, log 9). -/
def platformStore (addr : Nat) (byte : Option Byte) (s : State) : State :=
  let s' := { s with msgMem := Memory.set s.cfg.addrWidth addr byte s.msgMem }
  if hashRunning s && inMessage s addr && memRead s' addr != memRead s addr then { s' with msgDisturbed := true }
  else s'

/-- A platform path makes a store that the core's reads do not see yet (R67, log 26). A store to the message of a running
HASH breaks the duty of R67, seen or not. -/
def platformIssue (addr : Nat) (byte : Option Byte) (s : State) : State :=
  { s with pendingStores := s.pendingStores ++ [(addr, byte)]
           msgDisturbed := s.msgDisturbed || (hashRunning s && inMessage s addr) }

/-- The store at position `n` of those not visible yet becomes visible; none is there, nothing happens (R67, log 26). -/
def platformReveal (n : Nat) (s : State) : State :=
  match s.pendingStores[n]? with
  | none => s
  | some p => platformStore p.1 p.2 { s with pendingStores := s.pendingStores.eraseIdx n }

end Sys2Proof.Machine
end

