-- ==== Sys2Proof/Machine/RoundLogic.lean ====
section
/-! DEFINITION. One round of the transform: the mixing functions, rotation, addition and the round step
(spec/40_round_logic.md R100 to R109, spec/00_scope.md R9). -/

namespace Sys2Proof.Machine

/-- `ADD32(x, y) = (x + y) mod 2^32` (R9). -/
def add32 (x y : Word) : Word := x + y

/-- `ROTL(x, s) = ((x << s) OR (x >> (32 - s))) mod 2^32` (R9). -/
def rotl (x : Word) (s : Nat) : Word := (x <<< s) ||| (x >>> (32 - s))

/-- F, rounds 0 to 15 (R100). -/
def mixF (x y z : Word) : Word := (x &&& y) ||| (~~~x &&& z)

/-- G, rounds 16 to 31 (R101). -/
def mixG (x y z : Word) : Word := (x &&& z) ||| (y &&& ~~~z)

/-- H, rounds 32 to 47 (R102). -/
def mixH (x y z : Word) : Word := x ^^^ y ^^^ z

/-- I, rounds 48 to 63 (R103). -/
def mixI (x y z : Word) : Word := y ^^^ (x ||| ~~~z)

/-- `Fn(i, x, y, z)`: each group of sixteen rounds has its function (R104). -/
def mixFn (i : BitVec 6) (x y z : Word) : Word :=
  if i.toNat ≤ 15 then mixF x y z
  else if i.toNat ≤ 31 then mixG x y z
  else if i.toNat ≤ 47 then mixH x y z
  else mixI x y z

/-- `temp` of round `i` (R109). -/
def roundTemp (i : BitVec 6) (q : Quad) (m : Block) : Word :=
  add32 q.b (rotl (add32 (add32 (add32 q.a (mixFn i q.b q.c q.d)) (kConst i)) (m.get (gIndex i))) (sAmount i).toNat)

/-- `RoundStep`: `(a, b, c, d) <- (d, temp, b, c)`, a parallel assignment (R109). -/
def roundStep (i : BitVec 6) (q : Quad) (m : Block) : Quad :=
  { a := q.d, b := roundTemp i q m, c := q.b, d := q.c }

end Sys2Proof.Machine
end

