-- ==== Sys2Proof/Machine/Compression.lean ====
section
/-! DEFINITION. The compression function, the TRANSFORM command and the core steps of a transform
(spec/41_compression.md R130 to R138). -/

namespace Sys2Proof.Machine

/-- The working registers after the rounds 0 to `n - 1` (R130, step 3). -/
def runRounds (m : Block) (q : Quad) : Nat → Quad
  | 0 => q
  | n + 1 => roundStep (BitVec.ofNat 6 n) (runRounds m q n) m

/-- Word-wise addition modulo 2^32 (R130, step 4). -/
def addQuad (p q : Quad) : Quad :=
  { a := add32 p.a q.a, b := add32 p.b q.b, c := add32 p.c q.c, d := add32 p.d q.d }

/-- `Compress(Hin, M)` (R130). -/
def compress (hin : Quad) (m : Block) : Quad := addQuad hin (runRounds m hin 64)

/-- A command is presented: while BUSY = 1 the write is dropped, else it is started (R196 (1), R153). -/
def takeStart (first : Seq) (s : State) : State := if s.busy then dropWrite s else startCommand first s

/-- TRANSFORM taken (R133): `seq <- XSTART`; the core steps below do its work. -/
def execTransform (s : State) : Host.Outcome State Fault Refusal := .next (takeStart .xstart s)

/-- `StartBlock()`: `(a, b, c, d) <- (H[0], H[1], H[2], H[3]); i <- 0; seq <- ROUND` (R174). -/
def startBlock (s : State) : State := { s with w := s.h, i := 0, seq := .round }

/-- Core step XSTART (R135). -/
def stepXstart (s : State) : State := startBlock { s with mode := .xform }

/-- Core step ROUND (R136). -/
def stepRound (s : State) : State :=
  if s.i = 63 then { s with w := roundStep s.i s.w s.m, seq := .feed }
  else { s with w := roundStep s.i s.w s.m, i := s.i + 1 }

/-- Core step FEED (R137): one parallel write of `H`, then the end of a TRANSFORM or the next block of a HASH. -/
def stepFeed (s : State) : State :=
  match s.mode with
  | .xform => endCommand { s with h := addQuad s.h s.w }
  | .hash => { s with h := addQuad s.h s.w, seq := .next }

end Sys2Proof.Machine
end

