-- ==== Sys2Proof/WellFormed.lean ====
section
/-! DEFINITION. Which terms of Syntax.lean and Config.lean the spec admits: legal command words (R80, R82), legal
parameters (R7), host programs whose branches have a target (R86). -/

namespace Sys2Proof

/-- A command word is legal if "RSV" is 0 and OPC is one of the four assigned codes (R80, R82). -/
def CmdW.wf (f : CmdW) : Bool := f.rsv == 0 && decide (f.opc.toNat < 4)

/-- Every instruction is well-formed: a command "carries no immediate, register number or address" (R83), so there is
no operand to check. -/
def Instr.wf : Instr → Bool
  | .nop => true
  | .init => true
  | .transform => true
  | .hash => true

/-- The legal values of the parameters (R7). -/
def Config.wf (c : Config) : Bool :=
  decide (1 ≤ c.addrWidth) && decide (c.addrWidth ≤ 64) && decide (c.base % 128 = 0)

/-- The labels a host program defines, in order (R86). -/
def HostOp.labels : List HostOp → List Nat
  | [] => []
  | .label l :: rest => l :: HostOp.labels rest
  | _ :: rest => HostOp.labels rest

/-- A line of a host program that defines the labels `ls` is well-formed if a branch goes to one of them (R86), and a
raw bus access has the supported width and alignment: BASE is a multiple of 128 (R7), so an offset is a multiple of 4
exactly if the bus address is (R51). -/
def HostOp.wfIn (ls : List Nat) : HostOp → Bool
  | .bnz _ _ l => ls.contains l
  | .busWr addr width _ => width == 32 && addr % 4 == 0
  | .busRd addr width _ => width == 32 && addr % 4 == 0
  | .label _ => true
  | .wr _ _ => true
  | .rd _ _ => true
  | .halt => true

/-- A host program is well-formed if its labels are distinct and each line is (R86). -/
def HostOp.programWf (p : List HostOp) : Bool :=
  decide (HostOp.labels p).Nodup && p.all (HostOp.wfIn (HostOp.labels p))

end Sys2Proof
end

