-- ==== Sys2Proof/Decode.lean ====
section
/-! DEFINITION. The command decoder, total on 32-bit words and on byte strings and rejecting by name
(spec/30_encoding.md R80 to R84), and after it the encoder. -/

namespace Sys2Proof

/-- Why a word is no command. The first two are R82's two grounds for "illegal"; `truncated` is a byte string shorter
than a command word, which R80 says is always 32 bits. -/
inductive DecodeError where
  | reservedBits (rsv : BitVec 28)
  | illegalOpcode (opc : BitVec 4)
  | truncated
  deriving DecidableEq, Repr

/-- `LE32`: the first byte is least significant (R12). -/
def le32 (b0 b1 b2 b3 : Byte) : Word := b3 ++ b2 ++ b1 ++ b0

/-- Byte `k` of a word, bits `8k+7 : 8k` (R52). -/
def byteOf (v : Word) (k : Nat) : Byte := v.extractLsb' (8 * k) 8

/-- The fields of a command word (R80). -/
def CmdW.ofWord (v : Word) : CmdW := { rsv := v.extractLsb' 4 28, opc := v.extractLsb' 0 4 }

/-- The command word with the given fields (R80). -/
def CmdW.toWord (f : CmdW) : Word := f.rsv ++ f.opc

/-- The operation an OPC value selects (R81). -/
def instrOfOpc (opc : BitVec 4) : Option Instr :=
  match opc.toNat with
  | 0 => some .nop
  | 1 => some .init
  | 2 => some .transform
  | 3 => some .hash
  | _ => none

/-- `Decode` (R84): RSV is checked first, then OPC. An error is the spec's ILLEGAL. -/
def decode (v : Word) : Except DecodeError Instr :=
  if (CmdW.ofWord v).rsv ≠ 0 then .error (.reservedBits (CmdW.ofWord v).rsv)
  else match instrOfOpc (CmdW.ofWord v).opc with
    | some i => .ok i
    | none => .error (.illegalOpcode (CmdW.ofWord v).opc)

/-- Decoding from bytes in ascending address order: "always one word" (R80), whose bytes stand on the host bus least
significant first (R52; DEDUCED, log 14). The bytes after it are returned. -/
def decodeBytes : List Byte → Except DecodeError (Instr × List Byte)
  | b0 :: b1 :: b2 :: b3 :: rest =>
    match decode (le32 b0 b1 b2 b3) with
    | .ok i => .ok (i, rest)
    | .error e => .error e
  | _ => .error .truncated

/-- The OPC value of an operation (R81). -/
def opcOf : Instr → BitVec 4
  | .nop => 0
  | .init => 1
  | .transform => 2
  | .hash => 3

/-- The encoder: RSV is 0 (R80, R81). -/
def encode (i : Instr) : Word := CmdW.toWord { rsv := 0, opc := opcOf i }

/-- The bytes of a word in ascending address order (R52). -/
def wordBytes (v : Word) : List Byte := [byteOf v 0, byteOf v 1, byteOf v 2, byteOf v 3]

/-- The encoder to bytes. -/
def encodeBytes (i : Instr) : List Byte := wordBytes (encode i)

/-- The host's entry to the decoder: the instruction whose bits are `w`, of which the opcode table gives `nbits`. Bits
at and above `nbits` are 0. A command is one 32-bit word (R80), so a longer one is none. -/
def decodeTableWord (nbits w : Nat) : Option Instr :=
  if nbits ≤ 32 then
    match decodeBytes (wordBytes (BitVec.ofNat 32 (w % 2 ^ nbits))) with
    | .ok (i, _) => some i
    | .error _ => none
  else none

end Sys2Proof
end

