-- ==== Sys2Proof/Machine/Operands.lean ====
section
/-! DEFINITION. The operands of the commands: the block's bytes and words (spec/10_state.md R24), the padding and
length field (spec/42_driver.md R157 to R160), the range check of HASH (R153), and which register a window offset names
(R32). -/

namespace Sys2Proof.Machine

/-- `zeros(n)` (R13). -/
def zeros (n : Nat) : List Byte := List.replicate n 0

/-- `bytes_LE64(v)` (R12). -/
def bytesLE64 (v : BitVec 64) : List Byte :=
  [v.extractLsb' 0 8, v.extractLsb' 8 8, v.extractLsb' 16 8, v.extractLsb' 24 8,
   v.extractLsb' 32 8, v.extractLsb' 40 8, v.extractLsb' 48 8, v.extractLsb' 56 8]

/-- `Words(blk)`: the sixteen words `LE32(blk[4n], ..., blk[4n+3])` of a block's 64 bytes (R24, R131, R155). -/
def words (blk : List Byte) : Block :=
  Vector.ofFn (fun n => le32 (blk.getD (4 * n.val) 0) (blk.getD (4 * n.val + 1) 0)
    (blk.getD (4 * n.val + 2) 0) (blk.getD (4 * n.val + 3) 0))

/-- Byte `j` of a block, `M[j div 4][8*(j mod 4)+7 : 8*(j mod 4)]`, for `j` below 64 (R24). -/
def blockByte (m : Block) (j : Nat) : Byte := byteOf (m.get (Fin.ofNat 16 (j / 4))) (j % 4)

/-- The digest's bytes: each word least significant byte first, the words in the order `H[0]` to `H[3]` (R165). -/
def digestBytes (q : Quad) : List Byte := wordBytes q.a ++ wordBytes q.b ++ wordBytes q.c ++ wordBytes q.d

/-- The length field for an `L`-byte message, `bytes_LE64((8 * L) mod 2^64)` (R159). -/
def lengthField (l : Nat) : List Byte := bytesLE64 (BitVec.ofNat 64 (8 * l))

/-- The leftover bytes, the marker 0x80, and zero bytes to fill 64 (R157). -/
def markerBlock (tail : List Byte) : List Byte := tail ++ 0x80 :: zeros (63 - tail.length)

/-- `blk[56 .. 64) <- lenf` (R155, R174). -/
def putLength (blk lenf : List Byte) : List Byte := blk.take 56 ++ lenf

/-- The second final block: "56 zero bytes followed by the length field" (R160). -/
def lengthBlock (lenf : List Byte) : List Byte := zeros 56 ++ lenf

/-- The message of a HASH lies in the address space: `MSG_ADDR + LEN <= 2^ADDR_WIDTH`, "unbounded integers" (R153). -/
def messageInRange (s : State) : Bool := decide (s.msgAddr.toNat + s.len.toNat ≤ 2 ^ s.cfg.addrWidth)

/-- The window offset of a register (R32). -/
def Reg.offset : Reg → BitVec 7
  | .cmd => 0x00
  | .status => 0x04
  | .msgAddrLo => 0x08
  | .msgAddrHi => 0x0C
  | .lenLo => 0x10
  | .lenHi => 0x14
  | .state k => BitVec.ofNat 7 (0x20 + 4 * k.val)
  | .block n => BitVec.ofNat 7 (0x40 + 4 * n.val)

/-- The register at a window offset, none for a reserved one (R32). The offset is a multiple of 4 (R51). -/
def Reg.ofOffset (off : BitVec 7) : Option Reg :=
  match off.toNat / 4 with
  | 0 => some .cmd
  | 1 => some .status
  | 2 => some .msgAddrLo
  | 3 => some .msgAddrHi
  | 4 => some .lenLo
  | 5 => some .lenHi
  | 8 => some (.state 0)
  | 9 => some (.state 1)
  | 10 => some (.state 2)
  | 11 => some (.state 3)
  | slot => if 16 ≤ slot then some (.block (Fin.ofNat 16 (slot - 16))) else none

/-- Does an access of `width` bits at bus address `addr` touch the window, `BASE + 0x00` to `BASE + 0x7F` (R32)? -/
def touchesWindow (c : Config) (addr width : Nat) : Bool :=
  decide (addr < c.base + 128) && decide (c.base < addr + max 1 ((width + 7) / 8))

/-- The offset that a supported access to the window names: 32 bits wide, at a multiple of 4 (R50, R51). -/
def supportedOffset (c : Config) (addr width : Nat) : Option (BitVec 7) :=
  if width = 32 ∧ c.base ≤ addr ∧ addr < c.base + 128 ∧ (addr - c.base) % 4 = 0 then
    some (BitVec.ofNat 7 (addr - c.base))
  else none

end Sys2Proof.Machine
end

