-- ==== Sys2Proof/Machine/Driver.lean ====
section
/-! DEFINITION. The digest function, the NOP, INIT and HASH commands, and the core steps of the driver
(spec/42_driver.md R150 to R177). -/

namespace Sys2Proof.Machine

/-- Full block number `n` of a message: the bytes `64n` to `64n + 63` (R156). -/
def fullBlock (msg : List Byte) (n : Nat) : List Byte := (msg.drop (64 * n)).take 64

/-- The state after the full blocks 0 to `n - 1`, oldest first (R155 step 2, R156). -/
def compressFull (msg : List Byte) : Nat → Quad
  | 0 => iv
  | n + 1 => compress (compressFull msg n) (words (fullBlock msg n))

/-- The leftover bytes after the last full block, `L mod 64` of them (R157). -/
def messageTail (msg : List Byte) : List Byte := msg.drop (64 * (msg.length / 64))

/-- The digest function `MD5` (R155). -/
def md5 (msg : List Byte) : Quad :=
  let h := compressFull msg (msg.length / 64)
  let lenf := lengthField msg.length
  let blk := markerBlock (messageTail msg)
  if 56 ≤ msg.length % 64 then compress (compress h (words blk)) (words (lengthBlock lenf))
  else compress h (words (putLength blk lenf))

/-- The words of the last block `MD5` compresses, the one that holds the length field (R162). -/
def lastBlock (msg : List Byte) : Block :=
  if 56 ≤ msg.length % 64 then words (lengthBlock (lengthField msg.length))
  else words (putLength (markerBlock (messageTail msg)) (lengthField msg.length))

/-- The number of blocks HASH compresses for an `L`-byte message, `N(L)` (R161). -/
def blockCount (l : Nat) : Nat := if l % 64 ≤ 55 then l / 64 + 1 else l / 64 + 2

/-- The whole padded message: the message, the marker, the least number of zero bytes after which 8 bytes are left in a
block, and the length field (R157 to R160; spec/00_scope.md R14, "Padding"). -/
def paddedMessage (msg : List Byte) : List Byte :=
  msg ++ 0x80 :: zeros ((119 - msg.length % 64) % 64) ++ lengthField msg.length

/-- NOP taken (R151). -/
def execNop (s : State) : Host.Outcome State Fault Refusal := .next (takeStart .nop1 s)

/-- INIT taken (R152). -/
def execInit (s : State) : Host.Outcome State Fault Refusal := .next (takeStart .init1 s)

/-- HASH taken (R154): dropped while busy, rejected with RANGE if the message does not lie in the address space, else
started (R153, R194, R196). -/
def execHash (s : State) : Host.Outcome State Fault Refusal :=
  if s.busy then .next (dropWrite s)
  else if messageInRange s then .next (startCommand .hstart s)
  else .next (rejectCommand errRange s)

/-- Core step NOP1 (R171). -/
def stepNop1 (s : State) : State := endCommand s

/-- Core step INIT1 (R172). -/
def stepInit1 (s : State) : State := endCommand { s with h := iv }

/-- Core step HSTART (R173). -/
def stepHstart (s : State) : State :=
  { s with
    mode := .hash
    mbase := s.msgAddr &&& lowmask s.cfg.addrWidth
    mlen := s.len
    off := 0
    phase := .data
    h := iv
    seq := .next }

/-- NEXT on a full block (R174, first case). -/
def nextFull (s : State) : State :=
  match readBytes s (s.mbase.toNat + s.off.toNat) 64 with
  | none => raiseBusError s
  | some bytes => startBlock { s with m := words bytes, off := s.off + 64 }

/-- NEXT on the first final block of `rem` message bytes (R174, second case). -/
def nextFinal (s : State) (rem : Nat) : State :=
  match readBytes s (s.mbase.toNat + s.off.toNat) rem with
  | none => raiseBusError s
  | some tail =>
    if rem ≤ 55 then
      startBlock { s with
        m := words (putLength (markerBlock tail) (lengthField s.mlen.toNat))
        phase := .last
        off := s.mlen.setWidth 65 }
    else
      startBlock { s with m := words (markerBlock tail), phase := .extra, off := s.mlen.setWidth 65 }

/-- NEXT on the second final block (R174, third case). -/
def nextExtra (s : State) : State :=
  startBlock { s with m := words (lengthBlock (lengthField s.mlen.toNat)), phase := .last }

/-- NEXT with all blocks done (R174, fourth case). If the host broke the message duty, `H` and `M` are unspecified "at
the end of the command" (U4, R67). -/
def nextDone (s : State) : State := if s.msgDisturbed then endCommand (drawResults s) else endCommand s

/-- Core step NEXT, the block iterator (R174). -/
def stepNext (s : State) : State :=
  match s.phase with
  | .data =>
    if 64 ≤ s.mlen.toNat - s.off.toNat then nextFull s else nextFinal s (s.mlen.toNat - s.off.toNat)
  | .extra => nextExtra s
  | .last => nextDone s

/-- The core step that `seq` names (R170); "no step when `seq = IDLE`". -/
def coreStep (s : State) : State :=
  match s.seq with
  | .idle => s
  | .nop1 => stepNop1 s
  | .init1 => stepInit1 s
  | .xstart => stepXstart s
  | .hstart => stepHstart s
  | .next => stepNext s
  | .round => stepRound s
  | .feed => stepFeed s

/-- `n` core steps in a row. -/
def coreRun : Nat → State → State
  | 0, s => s
  | n + 1, s => coreRun n (coreStep s)

end Sys2Proof.Machine
end

