-- ==== Sys2Proof/Machine/Dispatch.lean ====
section
/-! DEFINITION. The meaning of each command: what taking it does (spec/42_driver.md R153). -/

namespace Sys2Proof.Machine

def exec (i : Instr) (s : State) : Host.Outcome State Fault Refusal :=
  match i with
  | .nop => Sys2Proof.Machine.execNop s
  | .init => Sys2Proof.Machine.execInit s
  | .transform => Sys2Proof.Machine.execTransform s
  | .hash => Sys2Proof.Machine.execHash s

end Sys2Proof.Machine
end

