-- ==== Sys2Proof/Machine/Flags.lean ====
section
/-! DEFINITION. The STATUS register as the host reads it (spec/10_state.md R31, spec/20_memory.md R53). "MD5CORE has no
condition codes, flags or predicates besides the STATUS fields" (R39): no datapath operation computes a flag. How STATUS
changes stands with the command operations of Ops.lean. -/

namespace Sys2Proof.Machine

/-- A truth value as one bit. -/
def bit (b : Bool) : BitVec 1 := BitVec.ofBool b

/-- `{27'b0, BWERR, ERR[2:0], BUSY}` (R53). -/
def statusWord (s : State) : Word := (0 : BitVec 27) ++ bit s.bwerr ++ s.err ++ bit s.busy

/-- The codes R190 does not reserve: "The only legal values of ERR are 0 to 3" (R31). -/
def errLegal (code : BitVec 3) : Bool := decide (code.toNat ≤ 3)

end Sys2Proof.Machine
end

