-- ==== Sys2Proof/Machine/Window.lean ====
section
/-! DEFINITION. The register window: host reads and writes and the taking of a command (spec/20_memory.md R50 to R57,
spec/42_driver.md R153). -/

namespace Sys2Proof.Machine

/-- `TakeCommand(v)` (R153): an illegal word is rejected with ILLEGAL_CMD (R192), another is the command it decodes
to. -/
def takeCommand (v : Word) (s : State) : Host.Outcome State Fault Refusal :=
  match decode v with
  | .error _ => .next (rejectCommand errIllegalCmd s)
  | .ok i => exec i s

/-- A read of a register whose value is unspecified while BUSY = 1: then a fresh draw, else `v` (R53, R54). -/
def readOrDraw (v : Word) (s : State) : Word × State := if s.busy then drawWord s else (v, s)

/-- `BusRead(off)` (R53, R54): the value and the state after, which differs by the draw count alone. A reserved ERR code
is the fault of U6. -/
def busRead (off : BitVec 7) (s : State) : Host.Outcome (Word × State) Fault Refusal :=
  match Reg.ofOffset off with
  | some .cmd => .next (0, s)
  | some .status => if errLegal s.err then .next (statusWord s, s) else .fault (.reservedErrCode s.err)
  | some .msgAddrLo => .next (loHalf s.msgAddr, s)
  | some .msgAddrHi => .next (hiHalf s.msgAddr, s)
  | some .lenLo => .next (loHalf s.len, s)
  | some .lenHi => .next (hiHalf s.len, s)
  | some (.state k) => .next (readOrDraw (Quad.getWord s.h k) s)
  | some (.block n) => .next (readOrDraw (s.m.get n) s)
  | none => .next (0, s)

/-- `BusWrite(off, v)` (R55, R56). -/
def busWrite (off : BitVec 7) (v : Word) (s : State) : Host.Outcome State Fault Refusal :=
  if s.busy then .next (dropWrite s)
  else match Reg.ofOffset off with
    | some .cmd => takeCommand v s
    | some .status => .next s
    | some .msgAddrLo => .next { s with msgAddr := setLo s.msgAddr (v &&& loHalf (lowmask s.cfg.addrWidth)) }
    | some .msgAddrHi => .next { s with msgAddr := setHi s.msgAddr (v &&& hiHalf (lowmask s.cfg.addrWidth)) }
    | some .lenLo => .next { s with len := setLo s.len v }
    | some .lenHi => .next { s with len := setHi s.len v }
    | some (.state k) => .next { s with h := Quad.setWord s.h k v }
    | some (.block n) => .next { s with m := s.m.set n.val v n.isLt }
    | none => .next s

end Sys2Proof.Machine
end

