-- ==== Sys2Proof/Machine/HostProgram.lean ====
section
/-! DEFINITION. The host agent: one line of a host program is one host step (spec/30_encoding.md R86), and the
pseudo-instructions are lists of lines (R87). -/

namespace Sys2Proof.Machine

/-- The host goes on to its next line. -/
def advanceHost (s : State) : State := { s with hostPc := s.hostPc + 1 }

/-- The value of host variable `t`; before its first assignment, a free value (log 10). -/
def hostVar (s : State) (t : Nat) : Word := (Cells.lookup t s.hostVars).getD (Config.freeHostVar t)

/-- `t <- v` for a host variable. -/
def setHostVar (t : Nat) (v : Word) (s : State) : State := { s with hostVars := Cells.insert t v s.hostVars }

/-- The index of the first line that defines label `l`. -/
def findLabel (l : Nat) : List HostOp → Option Nat
  | [] => none
  | op :: rest => if op = .label l then some 0 else (findLabel l rest).map (· + 1)

/-- `t <- BusRead(off)` (R86). -/
def hostRead (off : BitVec 7) (t : Nat) (s : State) : Host.Outcome State Fault Refusal :=
  match busRead off s with
  | .next r => .next (setHostVar t r.1 r.2)
  | .fault f => .fault f
  | .refused r => .refused r

/-- A bus read of any width at any bus address: supported (R51), refused (U1), or not this block's, when its value is
a free value (log 12). -/
def rawRead (addr width t : Nat) (s : State) : Host.Outcome State Fault Refusal :=
  match supportedOffset s.cfg addr width with
  | some off => hostRead off t s
  | none =>
    if touchesWindow s.cfg addr width then .refused (.unsupportedAccess false addr width)
    else .next (setHostVar t (drawWord s).1 (drawWord s).2)

/-- A bus write of any width at any bus address: supported (R51), refused (U1), or not this block's, when nothing here
changes (log 12). -/
def rawWrite (addr width : Nat) (v : Word) (s : State) : Host.Outcome State Fault Refusal :=
  match supportedOffset s.cfg addr width with
  | some off => busWrite off v s
  | none =>
    if touchesWindow s.cfg addr width then .refused (.unsupportedAccess true addr width) else .next s

/-- `BNZ <t>, <mask>, <label>`: "if `t AND mask != 0`, continue at `label`" (R86). -/
def hostBranch (t : Nat) (mask : Word) (l : Nat) (s : State) : Host.Outcome State Fault Refusal :=
  if hostVar s t &&& mask = 0 then .next (advanceHost s)
  else match findLabel l s.hostProg with
    | some n => .next { s with hostPc := n }
    | none => .refused (.unknownLabel l)

/-- One line of the host program (R86). -/
def hostOpStep (op : HostOp) (s : State) : Host.Outcome State Fault Refusal :=
  match op with
  | .label _ => .next (advanceHost s)
  | .wr r v => busWrite (Reg.offset r) v (advanceHost s)
  | .rd r t => hostRead (Reg.offset r) t (advanceHost s)
  | .bnz t mask l => hostBranch t mask l s
  | .halt => .next s
  | .busWr addr width v => rawWrite addr width v (advanceHost s)
  | .busRd addr width t => rawRead addr width t (advanceHost s)

/-- One host step: the line at the host's position; at the end of its program the host does nothing. -/
def hostStep (s : State) : Host.Outcome State Fault Refusal :=
  match s.hostProg[s.hostPc]? with
  | none => .next s
  | some op => hostOpStep op s

/-! ## Pseudo-instructions (R87) -/

/-- `CMD <command>`. -/
def pseudoCmd (i : Instr) : List HostOp := [.wr .cmd (encode i)]

/-- `WAIT`, with its fresh label and its variable. -/
def pseudoWait (label t : Nat) : List HostOp := [.label label, .rd .status t, .bnz t 0x00000001 label]

/-- `SETMSG addr, len`. -/
def pseudoSetMsg (addr len : BitVec 64) : List HostOp :=
  [.wr .msgAddrLo (loHalf addr), .wr .msgAddrHi (hiHalf addr), .wr .lenLo (loHalf len), .wr .lenHi (hiHalf len)]

/-- `SETSTATE v0, v1, v2, v3`. -/
def pseudoSetState (q : Quad) : List HostOp :=
  [.wr (.state 0) q.a, .wr (.state 1) q.b, .wr (.state 2) q.c, .wr (.state 3) q.d]

/-- `SETBLOCK w0, ..., w15`. -/
def pseudoSetBlock (m : Block) : List HostOp := (List.finRange 16).map (fun n => .wr (.block n) (m.get n))

/-- `GETSTATE -> t0, t1, t2, t3`. -/
def pseudoGetState (t0 t1 t2 t3 : Nat) : List HostOp :=
  [.rd (.state 0) t0, .rd (.state 1) t1, .rd (.state 2) t2, .rd (.state 3) t3]

end Sys2Proof.Machine
end

