-- ==== Sys2Proof/Machine/Schedule.lean ====
section
/-! DEFINITION. The steps of the agents and the schedule (spec/10_state.md R20, spec/70_reset_and_hazards.md R220, R226;
log 1). -/

namespace Sys2Proof.Machine

/-- The step of the agent whose turn it is. A core turn in IDLE takes no step (R170). -/
def turnStep (t : Turn) (s : State) : Host.Outcome State Fault Refusal :=
  match t with
  | .core => .next (coreStep s)
  | .host => hostStep s
  | .reset => .next (resetMachine s)
  | .message addr byte => .next (platformStore addr byte s)
  | .store addr byte => .next (platformIssue addr byte s)
  | .visible n => .next (platformReveal n s)

/-- The eager schedule: the core takes its steps while `seq` is not IDLE, and only then the host moves. -/
def eagerStep (s : State) : Host.Outcome State Fault Refusal :=
  if s.seq = .idle then hostStep s else .next (coreStep s)

/-- The next step: the next turn of the list, or the eager schedule when the list is empty. -/
def scheduledStep (s : State) : Host.Outcome State Fault Refusal :=
  match s.turns with
  | [] => eagerStep s
  | t :: rest => turnStep t { s with turns := rest }

/-- The host program with `op` as the host's next line. -/
def placeLine (op : HostOp) (s : State) : State :=
  { s with hostProg := s.hostProg.take s.hostPc ++ op :: s.hostProg.drop (s.hostPc + 1)
           hostPc := min s.hostPc s.hostProg.length }

end Sys2Proof.Machine
end

