-- ==== Sys2Proof/Machine/Step.lean ====
section
/-! DEFINITION. One step of the machine, and the placing of a command where the next step takes it. -/

namespace Sys2Proof.Machine

/-- One atomic step of one agent (spec/10_state.md R20, spec/20_memory.md R57). -/
def step (s : State) : Host.Outcome State Fault Refusal := scheduledStep s

/-- `s` with the command word `w` (its bits at and above `nbits` zero) as the host's next write to CMD, and the host's
turn next: MD5CORE "fetches no instructions" (spec/20_memory.md R70), a command is a host write (R30, log 2). -/
def State.withFetchWord (s : State) (nbits w : Nat) : State :=
  { placeLine (.wr .cmd (BitVec.ofNat 32 (w % 2 ^ nbits))) s with turns := .host :: s.turns }

end Sys2Proof.Machine
end

