-- ==== Sys2Proof/Safety.lean ====
section
/-! DEFINITION. What holds of every state a run reaches: the invariant of the machine, clause by clause from the spec. -/

namespace Sys2Proof.Machine

/-- What no core step writes: the host's operand registers, the message memory and the stores still to become visible
in it, the parameters, the host and the schedule (R27, R29, R62, R134, R163). -/
def HostSideKept (s t : State) : Prop :=
  t.msgAddr = s.msgAddr ∧ t.len = s.len ∧ t.msgMem = s.msgMem ∧
  t.pendingStores = s.pendingStores ∧ t.cfg = s.cfg ∧ t.hostProg = s.hostProg ∧
  t.hostPc = s.hostPc ∧ t.hostVars = s.hostVars ∧ t.turns = s.turns

/-- `s` with the host's turn used up, if the host moves next: its turn heads the list, or none is left and the core is
IDLE (log 1). -/
def hostTurn (s : State) : Option State :=
  match s.turns with
  | [] => if s.seq = .idle then some s else none
  | .host :: rest => some { s with turns := rest }
  | .core :: _ => none
  | .reset :: _ => none
  | .message _ _ :: _ => none
  | .store _ _ :: _ => none
  | .visible _ :: _ => none

/-- The window write, as offset and value, that a line of the host program does (R50, R86). -/
def lineWrite (c : Config) : HostOp → Option (BitVec 7 × Word)
  | .wr r v => some (Reg.offset r, v)
  | .busWr addr width v =>
    match supportedOffset c addr width with
    | some off => some (off, v)
    | none => none
  | .label _ => none
  | .rd _ _ => none
  | .bnz _ _ _ => none
  | .halt => none
  | .busRd _ _ _ => none

/-- The next step from `s` is the host write of `v` at `off`, made in the state `u`: `s` with the host's turn used up
and the host past its line. -/
def HostWrites (s : State) (off : BitVec 7) (v : Word) (u : State) : Prop :=
  ∃ (u' : State) (op : HostOp), hostTurn s = some u' ∧ s.hostProg[s.hostPc]? = some op ∧
    lineWrite s.cfg op = some (off, v) ∧ u = { u' with hostPc := s.hostPc + 1 }

/-- The latches of the HASH driver are unchanged (R37, R36). -/
def LatchesKept (s t : State) : Prop :=
  t.phase = s.phase ∧ t.mbase = s.mbase ∧ t.mlen = s.mlen ∧ t.off = s.off

/-- While a HASH runs past HSTART, the latches agree with the registers and stay in the message (R37, R59, R174). -/
structure LatchesOk (s : State) : Prop where
  base : s.mbase = s.msgAddr
  length : s.mlen = s.len
  range : s.mbase.toNat + s.mlen.toNat ≤ 2 ^ s.cfg.addrWidth
  offset : s.off.toNat ≤ s.mlen.toNat
  whole : s.phase = .data → s.off.toNat % 64 = 0
  done : s.phase ≠ .data → s.off = s.mlen.setWidth 65

/-- A HASH is past HSTART: its NEXT is due, or a block of it is being compressed (R35, R173, R174). -/
def hashLatched (s : State) : Prop :=
  s.seq = .next ∨ ((s.seq = .round ∨ s.seq = .feed) ∧ s.mode = .hash)

/-- The invariant of the machine. -/
structure StateInv (s : State) : Prop where
  /-- the parameters are legal (R7) -/
  config : s.cfg.wf = true
  /-- BUSY is 1 exactly while the sequencer is not IDLE (R31, R153, R170) -/
  busyIffRunning : s.busy = true ↔ s.seq ≠ .idle
  /-- "The only legal values of ERR are 0 to 3" (R31) -/
  errLegal : s.err.toNat ≤ 3
  /-- a started command runs with ERR = 0 (R153, R190) -/
  errWhileBusy : s.busy = true → s.err = errNone
  /-- bits of MSG_ADDR at and above ADDR_WIDTH are 0 (R27) -/
  msgAddr : s.msgAddr.toNat < 2 ^ s.cfg.addrWidth
  /-- message memory is canonical and lies in the address space (R28) -/
  memory : Memory.wf s.cfg.addrWidth s.msgMem = true
  /-- host variables are canonical -/
  vars : Cells.risingFrom none s.hostVars = true
  /-- a started HASH has its message in the address space (R59) -/
  hashRange : s.seq = .hstart → s.msgAddr.toNat + s.len.toNat ≤ 2 ^ s.cfg.addrWidth
  /-- NEXT is reached by HASH alone (R35, R137, R173) -/
  nextMode : s.seq = .next → s.mode = .hash
  /-- the driver latches are right while the driver uses them -/
  latches : hashLatched s → LatchesOk s

end Sys2Proof.Machine
end

