-- ==== Sys2Proof/Certificates/Slice0/Obligations.lean ====
section
/-! DEFINITION. The statements about MD5CORE for the provers, from the numbered rules of spec/. -/

open Sys2Proof Sys2Proof.Machine

/-! ## Encoding -/

/-- Words written out from spec/95_test_vectors.md section 5.1 decode as the table there says. -/
def Obligations.SpecWordsDecode : Prop :=
  decode 0x00000000 = .ok .nop ∧ decode 0x00000001 = .ok .init ∧ decode 0x00000002 = .ok .transform ∧
  decode 0x00000003 = .ok .hash ∧ decode 0x00000004 = .error (.illegalOpcode 4) ∧
  decode 0x0000000F = .error (.illegalOpcode 15) ∧ decode 0x00000010 = .error (.reservedBits 1) ∧
  decode 0x10000003 = .error (.reservedBits 0x1000000) ∧ decode 0x80000003 = .error (.reservedBits 0x8000000) ∧
  decode 0xFFFFFFFF = .error (.reservedBits 0xFFFFFFF)

/-- Decode and encode agree (R81, R84): a word decodes to a command exactly if it is that command's word, and the bytes
of a command's word, whatever follows them, decode to it (byte order: log 14). -/
def Obligations.DecodeEncodeAgree : Prop :=
  (∀ (v : Word) (i : Instr), decode v = .ok i ↔ v = encode i) ∧
  (∀ (i : Instr) (rest : List Byte), decodeBytes (encodeBytes i ++ rest) = .ok (i, rest))

/-- R84, the decoder as the spec writes it: RSV nonzero is illegal, else OPC 0 to 3 are the commands and every other OPC
is illegal. -/
def Obligations.DecodeFollowsTheFields : Prop :=
  ∀ v : Word,
    (v.extractLsb 31 4 ≠ 0 → ∃ e, decode v = .error e) ∧
    (v.extractLsb 31 4 = 0 →
      (v.extractLsb 3 0 = 0 → decode v = .ok .nop) ∧ (v.extractLsb 3 0 = 1 → decode v = .ok .init) ∧
      (v.extractLsb 3 0 = 2 → decode v = .ok .transform) ∧ (v.extractLsb 3 0 = 3 → decode v = .ok .hash) ∧
      (4 ≤ (v.extractLsb 3 0).toNat → ∃ e, decode v = .error e))

/-- R32: each register's offset names it, and the aligned offsets that name no register are the reserved ones. -/
def Obligations.WindowLayoutIsOneToOne : Prop :=
  (∀ r : Reg, Reg.ofOffset (Reg.offset r) = some r ∧ (Reg.offset r).toNat % 4 = 0) ∧
  (∀ off : BitVec 7, off.toNat % 4 = 0 →
    (Reg.ofOffset off = none ↔ off = 0x18 ∨ off = 0x1C ∨ (0x30 ≤ off.toNat ∧ off.toNat ≤ 0x3C)))

/-! ## Reset and the schedule -/

/-- R42: the values the spec gives each piece of state after reset. For what R42 calls unspecified nothing is said. -/
def Obligations.ResetHoldsTheSpecValues : Prop :=
  State.reset.h = { a := 0x67452301, b := 0xEFCDAB89, c := 0x98BADCFE, d := 0x10325476 } ∧
  (∀ n : Fin 16, State.reset.m.get n = 0) ∧ State.reset.msgAddr = 0 ∧ State.reset.len = 0 ∧
  State.reset.busy = false ∧ State.reset.err = 0 ∧ State.reset.bwerr = false ∧ State.reset.seq = .idle

/-- R220: the reset input, taken in any state, puts every piece of state R42 gives a value at that value and leaves no
command running. That it keeps what is not MD5CORE's own state is the model's: the parameters (log 4), the message memory (log
5), the stores not visible yet (log 26), the host and the schedule (log 23). -/
def Obligations.ResetInputAbandonsTheCommand : Prop :=
  ∀ s : State,
    (resetMachine s).h = { a := 0x67452301, b := 0xEFCDAB89, c := 0x98BADCFE, d := 0x10325476 } ∧
    (∀ n : Fin 16, (resetMachine s).m.get n = 0) ∧ (resetMachine s).msgAddr = 0 ∧ (resetMachine s).len = 0 ∧
    (resetMachine s).busy = false ∧ (resetMachine s).err = 0 ∧ (resetMachine s).bwerr = false ∧
    (resetMachine s).seq = .idle ∧ (∀ n, coreRun n (resetMachine s) = resetMachine s) ∧
    (resetMachine s).cfg = s.cfg ∧ (resetMachine s).msgMem = s.msgMem ∧
    (resetMachine s).pendingStores = s.pendingStores ∧ (resetMachine s).hostProg = s.hostProg ∧
    (resetMachine s).hostPc = s.hostPc ∧ (resetMachine s).hostVars = s.hostVars ∧ (resetMachine s).turns = s.turns

/-- The schedule, the model's choice of log 1: the agent at the head of the turn list moves, in the state without that
turn; with no turn left the core moves while it runs, else the host. -/
def Obligations.TurnNamesTheAgent : Prop :=
  (∀ s : State, s.turns = [] → s.seq ≠ .idle → step s = .next (coreStep s)) ∧
  (∀ s : State, s.turns = [] → s.seq = .idle → step s = hostStep s) ∧
  (∀ (s : State) (rest : List Turn), s.turns = .core :: rest → step s = .next (coreStep { s with turns := rest })) ∧
  (∀ (s : State) (rest : List Turn), s.turns = .host :: rest → step s = hostStep { s with turns := rest }) ∧
  (∀ (s : State) (rest : List Turn), s.turns = .reset :: rest → step s = .next (resetMachine { s with turns := rest })) ∧
  (∀ (s : State) (a : Nat) (b : Option Byte) (rest : List Turn), s.turns = .message a b :: rest →
    step s = .next (platformStore a b { s with turns := rest })) ∧
  (∀ (s : State) (a : Nat) (b : Option Byte) (rest : List Turn), s.turns = .store a b :: rest →
    step s = .next (platformIssue a b { s with turns := rest })) ∧
  (∀ (s : State) (n : Nat) (rest : List Turn), s.turns = .visible n :: rest →
    step s = .next (platformReveal n { s with turns := rest }))

/-- A step runs the decoded command: when the host's next line writes CMD and the word decodes to `i`, the step is
`exec i` with the host's turn used up and the host past that line. The same of the state `withFetchWord` makes. -/
def Obligations.StepRunsTheDecodedCommand : Prop :=
  (∀ (s : State) (v : Word) (i : Instr) (rest : List Turn), s.turns = .host :: rest →
    s.hostProg[s.hostPc]? = some (.wr .cmd v) → decode v = .ok i →
    step s = exec i { s with turns := rest, hostPc := s.hostPc + 1 }) ∧
  (∀ (s : State) (v : Word) (i : Instr), s.turns = [] → s.seq = .idle →
    s.hostProg[s.hostPc]? = some (.wr .cmd v) → decode v = .ok i →
    step s = exec i { s with hostPc := s.hostPc + 1 }) ∧
  (∀ (s : State) (w : Nat) (i : Instr), decode (BitVec.ofNat 32 w) = .ok i →
    step (s.withFetchWord 32 w) = exec i { s with
      hostProg := s.hostProg.take s.hostPc ++ .wr .cmd (BitVec.ofNat 32 w) :: s.hostProg.drop (s.hostPc + 1)
      hostPc := min s.hostPc s.hostProg.length + 1 })

/-! ## Taking commands -/

/-- R153 with the order of checks of R196 (1) to (3): what a write to CMD does, in every state and for every word. The
last field of a started command is the model's own mark (log 9). -/
def Obligations.CmdWriteTakesTheCommand : Prop :=
  ∀ (s : State) (v : Word),
    (s.busy = true → busWrite 0x00 v s = .next { s with bwerr := true }) ∧
    (s.busy = false → (∀ i, decode v ≠ .ok i) → busWrite 0x00 v s = .next { s with bwerr := false, err := 1 }) ∧
    (s.busy = false → decode v = .ok .hash → 2 ^ s.cfg.addrWidth < s.msgAddr.toNat + s.len.toNat →
      busWrite 0x00 v s = .next { s with bwerr := false, err := 2 }) ∧
    (s.busy = false → decode v = .ok .hash → s.msgAddr.toNat + s.len.toNat ≤ 2 ^ s.cfg.addrWidth →
      busWrite 0x00 v s =
        .next { s with bwerr := false, err := 0, busy := true, seq := .hstart, msgDisturbed := staleMessage s }) ∧
    (s.busy = false → decode v = .ok .nop → busWrite 0x00 v s =
        .next { s with bwerr := false, err := 0, busy := true, seq := .nop1, msgDisturbed := false }) ∧
    (s.busy = false → decode v = .ok .init → busWrite 0x00 v s =
        .next { s with bwerr := false, err := 0, busy := true, seq := .init1, msgDisturbed := false }) ∧
    (s.busy = false → decode v = .ok .transform → busWrite 0x00 v s =
        .next { s with bwerr := false, err := 0, busy := true, seq := .xstart, msgDisturbed := false })

/-- R192: an illegal word sets ERR to ILLEGAL_CMD and clears BWERR, nothing else changes, and the core takes no step for
it. -/
def Obligations.IllegalWordOnlySetsErr : Prop :=
  ∀ (s : State) (v : Word), s.busy = false → (v.extractLsb 31 4 ≠ 0 ∨ 4 ≤ (v.extractLsb 3 0).toNat) →
    takeCommand v s = .next { s with bwerr := false, err := 1 } ∧
    (s.seq = .idle → ∀ t, takeCommand v s = .next t → coreStep t = t)

/-- R194: a HASH whose message does not lie in the address space sets ERR to RANGE and clears BWERR, nothing else
changes, no byte is read, and the core takes no step. -/
def Obligations.HashOutOfRangeOnlySetsErr : Prop :=
  ∀ s : State, s.busy = false → 2 ^ s.cfg.addrWidth < s.msgAddr.toNat + s.len.toNat →
    exec .hash s = .next { s with bwerr := false, err := 2 } ∧
    (s.seq = .idle → ∀ t, exec .hash s = .next t → coreStep t = t)

/-- The frame of taking a command, for all four: `H`, the working registers, `M`, MSG_ADDR, LEN, the hidden registers,
the message memory, the parameters, the host and the schedule are unchanged; STATUS and `seq` alone (and the model's mark
of log 9) may change. -/
def Obligations.TakingWritesOnlyStatusAndSequencer : Prop :=
  ∀ (i : Instr) (s t : State), exec i s = .next t →
    t.h = s.h ∧ t.w = s.w ∧ t.m = s.m ∧ t.i = s.i ∧ t.mode = s.mode ∧ LatchesKept s t ∧ HostSideKept s t ∧
    t.draws = s.draws ∧ (∀ a, memRead t a = memRead s a) ∧
    (t.seq = s.seq ∨ (s.busy = false ∧ t.busy = true ∧ t.err = 0 ∧ t.bwerr = false))

/-- R56: a host write while BUSY = 1, at any offset, sets BWERR and changes nothing else; a command presented then is
such a write; and the running command goes on unaffected: the write before any number of core steps or after them gives
the same state. -/
def Obligations.BusyWriteIsDropped : Prop :=
  (∀ s : State, s.busy = true →
    (∀ (off : BitVec 7) (v : Word), busWrite off v s = .next { s with bwerr := true }) ∧
    (∀ i : Instr, exec i s = .next { s with bwerr := true })) ∧
  (∀ (n : Nat) (s : State), coreRun n { s with bwerr := true } = { coreRun n s with bwerr := true })

/-! ## Commands run to their end -/

/-- R151 and R171: NOP, taken while idle, sets BUSY; its one core step clears BUSY, and then STATUS is 0 and nothing else
has changed. -/
def Obligations.NopClearsStatus : Prop :=
  ∀ s : State, s.busy = false → ∃ t, exec .nop s = .next t ∧ t.busy = true ∧ t.seq = .nop1 ∧
    coreStep t = { s with bwerr := false, err := 0, busy := false, seq := .idle, msgDisturbed := false } ∧
    statusWord (coreStep t) = 0

/-- R152 and R172: INIT, taken while idle, sets BUSY; its one core step loads IV into `H` and clears BUSY, and nothing
else changes. -/
def Obligations.InitLoadsTheInitialValue : Prop :=
  ∀ s : State, s.busy = false → ∃ t, exec .init s = .next t ∧ t.busy = true ∧ t.seq = .init1 ∧ t.h = s.h ∧
    coreStep t = { s with
      h := { a := 0x67452301, b := 0xEFCDAB89, c := 0x98BADCFE, d := 0x10325476 }
      bwerr := false, err := 0, busy := false, seq := .idle, msgDisturbed := false }

/-- R133, R134 and R138: TRANSFORM, taken while idle, is started, and after 66 core steps `H` is `Compress` of the `H` and
`M` it was taken with, BUSY is 0, ERR is 0, and only the working registers, `i`, `mode` and `seq` have changed besides. -/
def Obligations.TransformCompressesTheBlock : Prop :=
  ∀ s : State, s.busy = false → ∃ t, exec .transform s = .next t ∧
    t.busy = true ∧ t.err = 0 ∧ t.bwerr = false ∧ t.seq = .xstart ∧ t.h = s.h ∧ t.m = s.m ∧
    (coreRun 66 t).h = compress s.h s.m ∧ (coreRun 66 t).busy = false ∧ (coreRun 66 t).seq = .idle ∧
    (coreRun 66 t).err = 0 ∧ (coreRun 66 t).bwerr = false ∧ (coreRun 66 t).m = s.m ∧
    LatchesKept s (coreRun 66 t) ∧ HostSideKept s (coreRun 66 t) ∧ (coreRun 66 t).draws = s.draws

/-- R138: from XSTART, 66 core steps leave `H = Compress(H0, M0)`, and `H` and `M` are not written before the last of
them. -/
def Obligations.SixtySixStepsCompress : Prop :=
  ∀ s : State, s.seq = .xstart →
    (coreRun 66 s).h = compress s.h s.m ∧ (∀ k, k < 66 → (coreRun k s).h = s.h) ∧ (∀ k, k ≤ 66 → (coreRun k s).m = s.m)

/-- R176 with R162 and R163: a HASH started with its message in range, every byte readable and every store to the
message visible (the duty of R67; the list of stores not visible yet is log 26) reaches IDLE after
`2 + 66 * N(L)` core steps with `H = MD5(msg)`, `M` the last block, ERR = 0, and MSG_ADDR and LEN unchanged. -/
def Obligations.HashComputesTheDigest : Prop :=
  ∀ (s : State) (msg : List Byte), s.busy = false → s.msgAddr.toNat + s.len.toNat ≤ 2 ^ s.cfg.addrWidth →
    readBytes s s.msgAddr.toNat s.len.toNat = some msg →
    (∀ p ∈ s.pendingStores, p.1 < s.msgAddr.toNat ∨ s.msgAddr.toNat + s.len.toNat ≤ p.1) →
    ∃ t, exec .hash s = .next t ∧ t.busy = true ∧ t.seq = .hstart ∧ t.err = 0 ∧ t.bwerr = false ∧
      (coreRun (2 + 66 * blockCount s.len.toNat) t).seq = .idle ∧
      (coreRun (2 + 66 * blockCount s.len.toNat) t).busy = false ∧
      (coreRun (2 + 66 * blockCount s.len.toNat) t).err = 0 ∧
      (coreRun (2 + 66 * blockCount s.len.toNat) t).bwerr = false ∧
      (coreRun (2 + 66 * blockCount s.len.toNat) t).h = md5 msg ∧
      (coreRun (2 + 66 * blockCount s.len.toNat) t).m = lastBlock msg ∧
      HostSideKept s (coreRun (2 + 66 * blockCount s.len.toNat) t) ∧
      (coreRun (2 + 66 * blockCount s.len.toNat) t).draws = s.draws

/-- A HASH started with its message in range of which some byte is not readable ends with ERR = BUS (R193), BUSY = 0, `H`
and `M` the next twenty draws (their order: log 8; their form: log 6), and MSG_ADDR, LEN and the message memory
unchanged, within the steps of a HASH of its length. -/
def Obligations.UnreadableMessageEndsWithBus : Prop :=
  ∀ s : State, s.busy = false → s.msgAddr.toNat + s.len.toNat ≤ 2 ^ s.cfg.addrWidth →
    readBytes s s.msgAddr.toNat s.len.toNat = none →
    ∃ t k, exec .hash s = .next t ∧ k ≤ 2 + 66 * blockCount s.len.toNat ∧ (coreRun k t).seq = .idle ∧
      (coreRun k t).busy = false ∧ (coreRun k t).err = 3 ∧ (coreRun k t).bwerr = false ∧
      (coreRun k t).h = { a := Config.freeBits 32 s.draws, b := Config.freeBits 32 (s.draws + 1),
                          c := Config.freeBits 32 (s.draws + 2), d := Config.freeBits 32 (s.draws + 3) } ∧
      (coreRun k t).m = Vector.ofFn (fun n => Config.freeBits 32 (s.draws + 4 + n.val)) ∧
      (coreRun k t).draws = s.draws + 20 ∧ HostSideKept s (coreRun k t)

/-- R177: a started command returns to IDLE after exactly this many core steps and not before: NOP 1, INIT 1,
TRANSFORM 66, HASH `2 + 66 * N(L)` when every read succeeds. -/
def Obligations.CommandsTakeTheirStepCount : Prop :=
  ∀ s : State, s.busy = false →
    (∀ t, exec .nop s = .next t → (coreRun 1 t).seq = .idle ∧ t.seq ≠ .idle) ∧
    (∀ t, exec .init s = .next t → (coreRun 1 t).seq = .idle ∧ t.seq ≠ .idle) ∧
    (∀ t, exec .transform s = .next t → (coreRun 66 t).seq = .idle ∧ ∀ k, k < 66 → (coreRun k t).seq ≠ .idle) ∧
    (∀ t, exec .hash s = .next t → s.msgAddr.toNat + s.len.toNat ≤ 2 ^ s.cfg.addrWidth →
      readBytes s s.msgAddr.toNat s.len.toNat ≠ none →
      (coreRun (2 + 66 * blockCount s.len.toNat) t).seq = .idle ∧
      ∀ k, k < 2 + 66 * blockCount s.len.toNat → (coreRun k t).seq ≠ .idle)

/-- Every running command ends (R177, R199: nothing but reset stops one, and no step waits): from any state of the
invariant, reached by a run or not, the core is IDLE after boundedly many of its steps. -/
def Obligations.EveryRunningCommandEnds : Prop :=
  ∀ s : State, StateInv s → ∃ k, k ≤ 66 * (s.len.toNat / 64 + 4) ∧ (coreRun k s).seq = .idle ∧ (coreRun k s).busy = false

/-- With no turn left, the machine's own run is the core's run while the core is not IDLE (the eager schedule, log 1). -/
def Obligations.EagerRunIsTheCoreRun : Prop :=
  ∀ (n : Nat) (s : State), s.turns = [] → (∀ k, k < n → (coreRun k s).seq ≠ .idle) →
    Host.Core.run Sys2Proof.core n s = .next (coreRun n s)

/-! ## Core steps -/

/-- R170: in IDLE the core takes no step. -/
def Obligations.IdleCoreTakesNoStep : Prop := ∀ s : State, s.seq = .idle → ∀ n, coreRun n s = s

/-- R171 and R172: the core steps NOP1 and INIT1, in every state. -/
def Obligations.OneStepCommandsEnd : Prop :=
  (∀ s : State, s.seq = .nop1 → coreStep s = { s with busy := false, seq := .idle }) ∧
  (∀ s : State, s.seq = .init1 → coreStep s = { s with
    h := { a := 0x67452301, b := 0xEFCDAB89, c := 0x98BADCFE, d := 0x10325476 }, busy := false, seq := .idle })

/-- R135, R136 and R137: what the three core steps of a transform write, and that they write nothing else. -/
def Obligations.TransformStepsWriteTheirRegisters : Prop :=
  (∀ s : State, s.seq = .xstart → coreStep s = { s with mode := .xform, w := s.h, i := 0, seq := .round }) ∧
  (∀ s : State, s.seq = .round → s.i = 63 → coreStep s = { s with w := roundStep 63 s.w s.m, seq := .feed }) ∧
  (∀ s : State, s.seq = .round → s.i ≠ 63 → coreStep s = { s with w := roundStep s.i s.w s.m, i := s.i + 1 }) ∧
  (∀ s : State, s.seq = .feed → s.mode = .xform → coreStep s = { s with
    h := { a := s.h.a + s.w.a, b := s.h.b + s.w.b, c := s.h.c + s.w.c, d := s.h.d + s.w.d }
    busy := false, seq := .idle }) ∧
  (∀ s : State, s.seq = .feed → s.mode = .hash → coreStep s = { s with
    h := { a := s.h.a + s.w.a, b := s.h.b + s.w.b, c := s.h.c + s.w.c, d := s.h.d + s.w.d }
    seq := .next })

/-- R173: HSTART latches the message's address and length, clears the offset, sets phase and mode, and loads IV; nothing
else changes. `mbase` is MSG_ADDR's low ADDR_WIDTH bits. -/
def Obligations.HstartLatchesTheMessage : Prop :=
  ∀ s : State, s.seq = .hstart → s.cfg.wf = true →
    (coreStep s).mbase.toNat = s.msgAddr.toNat % 2 ^ s.cfg.addrWidth ∧
    coreStep s = { s with
      mode := .hash, mbase := (coreStep s).mbase, mlen := s.len, off := 0, phase := .data
      h := { a := 0x67452301, b := 0xEFCDAB89, c := 0x98BADCFE, d := 0x10325476 }, seq := .next }

/-- R174: the NEXT step in each of its cases, for an offset within the message (the only ones a run reaches, log 16),
reads that succeed and, in the last case, a message duty that was kept (R67; its mark is log 9). The blocks are written
out, over the model's `words` and `bytesLE64`. -/
def Obligations.NextStepIteratesTheBlocks : Prop :=
  ∀ s : State, s.seq = .next → s.off.toNat ≤ s.mlen.toNat →
    (s.phase = .data → 64 ≤ s.mlen.toNat - s.off.toNat →
      ∀ bs, readBytes s (s.mbase.toNat + s.off.toNat) 64 = some bs →
      coreStep s = { s with m := words bs, off := s.off + 64, w := s.h, i := 0, seq := .round }) ∧
    (s.phase = .data → s.mlen.toNat - s.off.toNat ≤ 55 →
      ∀ bs, readBytes s (s.mbase.toNat + s.off.toNat) (s.mlen.toNat - s.off.toNat) = some bs →
      coreStep s = { s with
        m := words ((bs ++ 0x80 :: List.replicate (55 - bs.length) 0) ++ bytesLE64 (8 * s.mlen))
        phase := .last, off := s.mlen.setWidth 65, w := s.h, i := 0, seq := .round }) ∧
    (s.phase = .data → 56 ≤ s.mlen.toNat - s.off.toNat → s.mlen.toNat - s.off.toNat < 64 →
      ∀ bs, readBytes s (s.mbase.toNat + s.off.toNat) (s.mlen.toNat - s.off.toNat) = some bs →
      coreStep s = { s with
        m := words (bs ++ 0x80 :: List.replicate (63 - bs.length) 0)
        phase := .extra, off := s.mlen.setWidth 65, w := s.h, i := 0, seq := .round }) ∧
    (s.phase = .extra → coreStep s = { s with
        m := words (List.replicate 56 0 ++ bytesLE64 (8 * s.mlen)), phase := .last, w := s.h, i := 0, seq := .round }) ∧
    (s.phase = .last → s.msgDisturbed = false → coreStep s = { s with busy := false, seq := .idle })

/-- R193: a NEXT step one of whose reads fails sets ERR to BUS, makes `H` and `M` the next twenty draws (their order: log
8; their form and count: log 6) and ends the command; MSG_ADDR, LEN, BWERR and all other state are unchanged. -/
def Obligations.FailedReadEndsTheCommand : Prop :=
  ∀ s : State, s.seq = .next → s.phase = .data →
    readBytes s (s.mbase.toNat + s.off.toNat) (min 64 (s.mlen.toNat - s.off.toNat)) = none →
    coreStep s = { s with
      h := { a := Config.freeBits 32 s.draws, b := Config.freeBits 32 (s.draws + 1),
             c := Config.freeBits 32 (s.draws + 2), d := Config.freeBits 32 (s.draws + 3) }
      m := Vector.ofFn (fun n => Config.freeBits 32 (s.draws + 4 + n.val))
      draws := s.draws + 20, err := 3, busy := false, seq := .idle }

/-- R22: the core writes `H` only in INIT1, HSTART and FEED; a failed message read is "the one other case". The host kept
its message duty (R67); where it did not, `H` is unspecified at the end of the HASH (U4). -/
def Obligations.OnlyThreeStepsWriteTheState : Prop :=
  ∀ s : State, s.seq ≠ .init1 → s.seq ≠ .hstart → s.seq ≠ .feed → s.msgDisturbed = false →
    (coreStep s).h = s.h ∨ (s.seq = .next ∧ (coreStep s).err = 3 ∧ (coreStep s).seq = .idle)

/-- The block buffer is written by no core step but NEXT (R25, R134), so `M` stays what it was through every step that
reads it. -/
def Obligations.OnlyNextWritesTheBlock : Prop := ∀ s : State, s.seq ≠ .next → (coreStep s).m = s.m

/-- R191: no core step changes ERR but a NEXT step whose read fails, which sets it to BUS and ends the command. -/
def Obligations.OnlyFailedReadSetsErr : Prop :=
  ∀ s : State, (coreStep s).err ≠ s.err →
    s.seq = .next ∧ s.phase = .data ∧ (coreStep s).err = 3 ∧ (coreStep s).seq = .idle ∧ (coreStep s).busy = false ∧
    readBytes s (s.mbase.toNat + s.off.toNat) (min 64 (s.mlen.toNat - s.off.toNat)) = none

/-- R59 and R60: a core step depends on the message bytes alone: changing message memory anywhere outside the message of
the running HASH changes nothing the step does. -/
def Obligations.CoreReadsOnlyTheMessage : Prop :=
  ∀ (s : State) (mem : List Host.Cell), StateInv s →
    (∀ a, s.msgAddr.toNat ≤ a → a < s.msgAddr.toNat + s.len.toNat →
      memRead { s with msgMem := mem } a = memRead s a) →
    coreStep { s with msgMem := mem } = { coreStep s with msgMem := mem }

/-! ## The machine as a whole -/

/-- The invariant holds at reset. -/
def Obligations.ResetIsSound : Prop := StateInv State.reset

/-- Every step of every agent keeps the invariant: BUSY and `seq` agree, ERR is legal and 0 while busy, MSG_ADDR's high
bits are 0, message memory is canonical, and the latches of a running HASH stay in its message. -/
def Obligations.EveryStepKeepsTheMachineSound : Prop :=
  ∀ s t : State, StateInv s → step s = .next t → StateInv t

/-- R62: no core step and no command writes message memory. And a step that is not a platform path's own change of it
leaves every byte as it was, which rests on the model for two agents: the reset input keeps message memory (log 5), and a
bus write outside the window is not a store to it (log 12). -/
def Obligations.MessageMemoryIsNeverWritten : Prop :=
  (∀ s : State, (coreStep s).msgMem = s.msgMem) ∧
  (∀ (i : Instr) (s t : State), exec i s = .next t → t.msgMem = s.msgMem) ∧
  (∀ s t : State, step s = .next t → (∀ a b rest, s.turns ≠ .message a b :: rest) →
    (∀ n rest, s.turns ≠ .visible n :: rest) → ∀ a, memRead t a = memRead s a)

/-- R195: BWERR is set only by a host write while BUSY = 1, which does nothing else, and cleared only by the host write
that takes a command (or by the reset input, R220). And each such write does so: one while BUSY = 1 sets BWERR, one to
CMD while BUSY = 0 clears it. The write is that of the host's next line, made with the host's turn used up and the host
past the line (log 1, log 21). -/
def Obligations.BwerrIsSticky : Prop :=
  (∀ s t : State, step s = .next t →
    (s.bwerr = false → t.bwerr = true →
      s.busy = true ∧ ∃ off v u, HostWrites s off v u ∧ t = { u with bwerr := true }) ∧
    (s.bwerr = true → t.bwerr = false →
      (∃ rest, s.turns = .reset :: rest) ∨
      (s.busy = false ∧ ∃ v u, HostWrites s 0x00 v u ∧ takeCommand v u = .next t))) ∧
  (∀ (s u : State) (off : BitVec 7) (v : Word), HostWrites s off v u →
    (s.busy = true → step s = .next { u with bwerr := true }) ∧
    (s.busy = false → off = 0x00 → step s = takeCommand v u ∧ ∃ t, takeCommand v u = .next t ∧ t.bwerr = false))

/-- Reading message memory after a platform path changed one address of it: the new contents there, the old ones
elsewhere; no address exists at or above `2^ADDR_WIDTH` (R28, R58; log 5). A store that is not visible yet changes no
read; when it becomes visible it is such a change (R67; log 26). -/
def Obligations.MessageReadAfterPlatformStore : Prop :=
  (∀ (s : State) (a : Nat) (b : Option Byte) (x : Nat), Memory.wf s.cfg.addrWidth s.msgMem = true →
    memRead (platformStore a b s) x = if x = a ∧ a < 2 ^ s.cfg.addrWidth then b else memRead s x) ∧
  (∀ (s : State) (a : Nat) (b : Option Byte) (x : Nat), memRead (platformIssue a b s) x = memRead s x ∧
    (platformIssue a b s).pendingStores = s.pendingStores ++ [(a, b)]) ∧
  (∀ (s : State) (n a : Nat) (b : Option Byte) (x : Nat), Memory.wf s.cfg.addrWidth s.msgMem = true →
    s.pendingStores[n]? = some (a, b) →
    memRead (platformReveal n s) x = (if x = a ∧ a < 2 ^ s.cfg.addrWidth then b else memRead s x) ∧
    (platformReveal n s).pendingStores = s.pendingStores.eraseIdx n) ∧
  (∀ (s : State) (n : Nat), s.pendingStores[n]? = none → platformReveal n s = s)

/-- U4, R67, with the model's mark (log 9). The duty is broken, and marked, when a byte of the message of a running HASH is
changed, when a store is made to it that is not visible yet, and when a HASH is started with a store to its message not
visible yet (log 26); nothing else these do is marked. A HASH that was marked ends with BUSY = 0, ERR unchanged, and `H`
and `M` the next twenty draws (log 6). -/
def Obligations.BrokenMessageDutyFreesTheResults : Prop :=
  (∀ (s : State) (a : Nat) (b : Option Byte),
    (platformStore a b s).msgDisturbed = true ↔ (s.msgDisturbed = true ∨
      (hashRunning s = true ∧ s.msgAddr.toNat ≤ a ∧ a < s.msgAddr.toNat + s.len.toNat ∧
        memRead (platformStore a b s) a ≠ memRead s a))) ∧
  (∀ (s : State) (a : Nat) (b : Option Byte),
    (platformIssue a b s).msgDisturbed = true ↔ (s.msgDisturbed = true ∨
      (hashRunning s = true ∧ s.msgAddr.toNat ≤ a ∧ a < s.msgAddr.toNat + s.len.toNat))) ∧
  (∀ s t : State, s.busy = false → s.msgAddr.toNat + s.len.toNat ≤ 2 ^ s.cfg.addrWidth → exec .hash s = .next t →
    (t.msgDisturbed = true ↔
      ∃ p ∈ s.pendingStores, s.msgAddr.toNat ≤ p.1 ∧ p.1 < s.msgAddr.toNat + s.len.toNat)) ∧
  (∀ s : State, s.seq = .next → s.phase = .last → s.msgDisturbed = true →
    coreStep s = { s with
      h := { a := Config.freeBits 32 s.draws, b := Config.freeBits 32 (s.draws + 1),
             c := Config.freeBits 32 (s.draws + 2), d := Config.freeBits 32 (s.draws + 3) }
      m := Vector.ofFn (fun n => Config.freeBits 32 (s.draws + 4 + n.val))
      draws := s.draws + 20, busy := false, seq := .idle })

/-! ## The register window -/

/-- R31 and R53: the fields of STATUS as read: BUSY in bit 0, ERR in bits 3:1, BWERR in bit 4, zero above. -/
def Obligations.StatusWordHasItsFields : Prop :=
  ∀ s : State, statusWord s =
    BitVec.ofNat 32 ((if s.bwerr then 16 else 0) + 2 * s.err.toNat + (if s.busy then 1 else 0))

/-- R53: a host read while idle returns the register's value and has no side effect; reserved offsets and CMD read 0. ERR
is a code that R190 does not reserve. -/
def Obligations.IdleReadReturnsTheRegister : Prop :=
  ∀ s : State, s.busy = false →
    busRead 0x00 s = .next (0, s) ∧ (s.err.toNat ≤ 3 → busRead 0x04 s = .next (statusWord s, s)) ∧
    busRead 0x08 s = .next (s.msgAddr.extractLsb 31 0, s) ∧ busRead 0x0C s = .next (s.msgAddr.extractLsb 63 32, s) ∧
    busRead 0x10 s = .next (s.len.extractLsb 31 0, s) ∧ busRead 0x14 s = .next (s.len.extractLsb 63 32, s) ∧
    busRead 0x20 s = .next (s.h.a, s) ∧ busRead 0x24 s = .next (s.h.b, s) ∧
    busRead 0x28 s = .next (s.h.c, s) ∧ busRead 0x2C s = .next (s.h.d, s) ∧
    (∀ n : Fin 16, busRead (BitVec.ofNat 7 (0x40 + 4 * n.val)) s = .next (s.m.get n, s)) ∧
    (∀ off : BitVec 7, off = 0x18 ∨ off = 0x1C ∨ off = 0x30 ∨ off = 0x34 ∨ off = 0x38 ∨ off = 0x3C →
      busRead off s = .next (0, s))

/-- R54: a host read of STATE or BLOCK while busy answers some value and changes nothing but the model's draw count, and
two such reads take different draws (log 6); every other register reads as when idle. -/
def Obligations.BusyReadIsADraw : Prop :=
  ∀ s : State, s.busy = true →
    (∀ off : BitVec 7, off.toNat % 4 = 0 → (0x20 ≤ off.toNat ∧ off.toNat ≤ 0x2C) ∨ 0x40 ≤ off.toNat →
      busRead off s = .next (Config.freeBits 32 s.draws, { s with draws := s.draws + 1 })) ∧
    (∀ off : BitVec 7, off.toNat % 4 = 0 → off.toNat < 0x20 ∨ (0x30 ≤ off.toNat ∧ off.toNat < 0x40) →
      ∀ x, busRead off { s with busy := false } = .next (x, { s with busy := false }) → off ≠ 0x04 →
      busRead off s = .next (x, s)) ∧
    (s.err.toNat ≤ 3 → busRead 0x04 s = .next (statusWord s, s))

/-- U6, R190: a read of STATUS that finds a reserved ERR code is the model's fault of that name, and no step of a state
of the invariant raises it. -/
def Obligations.ReservedErrCodeFaults : Prop :=
  (∀ s : State, 4 ≤ s.err.toNat → busRead 0x04 s = .fault (.reservedErrCode s.err)) ∧
  (∀ (s : State) (f : Fault), StateInv s → step s ≠ .fault f)

/-- R55: what a host write while idle does at every offset (at CMD, `TakeCommand`), and that it does nothing else. -/
def Obligations.IdleWriteSetsTheRegister : Prop :=
  ∀ (s : State) (v : Word), s.busy = false →
    busWrite 0x00 v s = takeCommand v s ∧ busWrite 0x04 v s = .next s ∧
    (∃ x, busWrite 0x08 v s = .next { s with msgAddr := x } ∧ x.extractLsb 63 32 = s.msgAddr.extractLsb 63 32 ∧
      x.extractLsb 31 0 = v &&& (BitVec.ofNat 64 (2 ^ s.cfg.addrWidth - 1)).extractLsb 31 0) ∧
    (∃ x, busWrite 0x0C v s = .next { s with msgAddr := x } ∧ x.extractLsb 31 0 = s.msgAddr.extractLsb 31 0 ∧
      x.extractLsb 63 32 = v &&& (BitVec.ofNat 64 (2 ^ s.cfg.addrWidth - 1)).extractLsb 63 32) ∧
    (∃ x, busWrite 0x10 v s = .next { s with len := x } ∧ x.extractLsb 63 32 = s.len.extractLsb 63 32 ∧
      x.extractLsb 31 0 = v) ∧
    (∃ x, busWrite 0x14 v s = .next { s with len := x } ∧ x.extractLsb 31 0 = s.len.extractLsb 31 0 ∧
      x.extractLsb 63 32 = v) ∧
    busWrite 0x20 v s = .next { s with h := { s.h with a := v } } ∧
    busWrite 0x24 v s = .next { s with h := { s.h with b := v } } ∧
    busWrite 0x28 v s = .next { s with h := { s.h with c := v } } ∧
    busWrite 0x2C v s = .next { s with h := { s.h with d := v } } ∧
    (∀ n : Fin 16, busWrite (BitVec.ofNat 7 (0x40 + 4 * n.val)) v s = .next { s with m := s.m.set n.val v n.isLt }) ∧
    (∀ off : BitVec 7, off = 0x18 ∨ off = 0x1C ∨ off = 0x30 ∨ off = 0x34 ∨ off = 0x38 ∨ off = 0x3C →
      busWrite off v s = .next s)

/-- R66: the window is a set of registers: after a write to one while idle, a read of it returns what was written (in
MSG_ADDR, its bits below ADDR_WIDTH), and a read of any other returns what it returned before. -/
def Obligations.WrittenRegisterReadsBack : Prop :=
  ∀ (s t : State) (r : Reg) (v : Word), s.busy = false → r ≠ .cmd → r ≠ .status →
    busWrite (Reg.offset r) v s = .next t →
    busRead (Reg.offset r) t = .next (match r with
      | .msgAddrLo => v &&& loHalf (lowmask s.cfg.addrWidth)
      | .msgAddrHi => v &&& hiHalf (lowmask s.cfg.addrWidth)
      | _ => v, t) ∧
    (∀ (r' : Reg) (x : Word), r' ≠ r → busRead (Reg.offset r') s = .next (x, s) → busRead (Reg.offset r') t = .next (x, t))

/-- R51: an access that touches the window and is not 32 bits wide or not at a multiple of 4 is refused by name, for a
read and for a write, in every state. -/
def Obligations.UnsupportedAccessIsRefused : Prop :=
  ∀ (s : State) (addr width t : Nat) (v : Word), s.cfg.wf = true → s.cfg.base ≤ addr → addr < s.cfg.base + 128 →
    0 < width → (width ≠ 32 ∨ (addr - s.cfg.base) % 4 ≠ 0) →
    rawWrite addr width v s = .refused (.unsupportedAccess true addr width) ∧
    rawRead addr width t s = .refused (.unsupportedAccess false addr width)

/-- R50: a 32-bit access at a bus address that is a multiple of 4 in the window is the access of that offset. -/
def Obligations.SupportedAccessNamesItsOffset : Prop :=
  ∀ (s : State) (off : BitVec 7) (t : Nat) (v : Word), off.toNat % 4 = 0 →
    rawWrite (s.cfg.base + off.toNat) 32 v s = busWrite off v s ∧
    rawRead (s.cfg.base + off.toNat) 32 t s = hostRead off t s

/-! ## The host program -/

/-- R86: what the lines of a host program do. Label and BNZ move the host's position alone, RD assigns one host
variable, WR is a window write, HALT ends. -/
def Obligations.HostLinesDoTheirAccess : Prop :=
  ∀ s : State,
    (∀ r v, hostOpStep (.wr r v) s = busWrite (Reg.offset r) v { s with hostPc := s.hostPc + 1 }) ∧
    (∀ r t x s', busRead (Reg.offset r) { s with hostPc := s.hostPc + 1 } = .next (x, s') →
      ∃ u, hostOpStep (.rd r t) s = .next u ∧ hostVar u t = x ∧ (∀ t', t' ≠ t → hostVar u t' = hostVar s t') ∧
        u = { s' with hostVars := u.hostVars }) ∧
    (∀ t mask l, hostVar s t &&& mask = 0 → hostOpStep (.bnz t mask l) s = .next { s with hostPc := s.hostPc + 1 }) ∧
    (∀ t mask l n, hostVar s t &&& mask ≠ 0 → findLabel l s.hostProg = some n →
      hostOpStep (.bnz t mask l) s = .next { s with hostPc := n }) ∧
    (∀ l, hostOpStep (.label l) s = .next { s with hostPc := s.hostPc + 1 }) ∧
    hostOpStep .halt s = .next s

/-- R87: SETMSG, run while the core is idle, sets MSG_ADDR and LEN to its operands in four steps. -/
def Obligations.SetMsgSetsTheOperands : Prop :=
  ∀ (s : State) (addr len : BitVec 64) (pre post : List HostOp), s.turns = [] → s.seq = .idle → s.busy = false →
    s.hostProg = pre ++ pseudoSetMsg addr len ++ post → s.hostPc = pre.length →
    addr.toNat < 2 ^ s.cfg.addrWidth →
    Host.Core.run Sys2Proof.core 4 s =
      .next { s with msgAddr := addr, len := len, hostPc := s.hostPc + 4 }

/-- R87 and R223: once the core is idle, WAIT falls through: its STATUS read finds BUSY = 0 and the branch is not taken.
That its label, read and branch are three steps is the model's: each line of a host program takes one host turn (log 21),
and with no turn left the host moves while the core is idle (log 1). -/
def Obligations.WaitFallsThroughWhenIdle : Prop :=
  ∀ (s : State) (label t : Nat) (pre post : List HostOp), s.turns = [] → s.seq = .idle → s.busy = false →
    s.err.toNat ≤ 3 → s.hostProg = pre ++ pseudoWait label t ++ post → s.hostPc = pre.length →
    ∃ u, Host.Core.run Sys2Proof.core 3 s = .next u ∧ u.hostPc = s.hostPc + 3 ∧ hostVar u t = statusWord s ∧
      u = { s with hostPc := u.hostPc, hostVars := u.hostVars }

/-! ## Round logic and the digest -/

/-- R100 to R103: the mixing functions with the corner cases and examples the rules give. -/
def Obligations.MixingFunctionsSelect : Prop :=
  (∀ x y z : Word, mixF x y z = (x &&& y) ||| ((x ^^^ 0xFFFFFFFF) &&& z) ∧
    mixG x y z = (x &&& z) ||| (y &&& (z ^^^ 0xFFFFFFFF)) ∧ mixH x y z = x ^^^ y ^^^ z ∧
    mixI x y z = y ^^^ (x ||| (z ^^^ 0xFFFFFFFF))) ∧
  (∀ (x y z : Word) (n : Nat), n < 32 →
    (mixF x y z).getLsbD n = (if x.getLsbD n then y.getLsbD n else z.getLsbD n) ∧
    (mixG x y z).getLsbD n = (if z.getLsbD n then x.getLsbD n else y.getLsbD n) ∧
    (mixH x y z).getLsbD n = ((x.getLsbD n).xor ((y.getLsbD n).xor (z.getLsbD n)))) ∧
  (∀ y z : Word, mixF 0 y z = z ∧ mixF 0xFFFFFFFF y z = y ∧ mixI 0xFFFFFFFF y z = y ^^^ 0xFFFFFFFF) ∧
  (∀ x y z : Word, mixF x x x = x ∧ mixG x y 0 = y ∧ mixG x y 0xFFFFFFFF = x ∧ mixH x x z = z) ∧
  mixI 0 0 0 = 0xFFFFFFFF ∧ mixH 0xFFFFFFFF 0xFFFFFFFF 0xFFFFFFFF = 0xFFFFFFFF ∧
  mixF 0xEFCDAB89 0x98BADCFE 0x10325476 = 0x98BADCFE ∧ mixG 0xEFCDAB89 0x98BADCFE 0x10325476 = 0x88888888 ∧
  mixH 0xEFCDAB89 0x98BADCFE 0x10325476 = 0x67452301 ∧ mixI 0xEFCDAB89 0x98BADCFE 0x10325476 = 0x77777777

/-- R9 and R105: rotation is a true rotation for every amount in table S, and keeps the all-ones word. -/
def Obligations.RotationMovesEveryBit : Prop :=
  (∀ (x : Word) (n k : Nat), 1 ≤ n → n ≤ 31 → k < 32 → (rotl x n).getLsbD ((k + n) % 32) = x.getLsbD k) ∧
  (∀ n : Nat, 1 ≤ n → n ≤ 31 → rotl 0xFFFFFFFF n = 0xFFFFFFFF) ∧
  rotl 0x12345678 4 = 0x23456781 ∧ rotl 0x80000001 7 = 0x000000C0

/-- R85 with R104 and R106 to R108: what the round index selects: the group's function, the constant of the table, the
amount of the table, and the message word by an index schedule in which each group of sixteen rounds reads every word.
The tables are the spec's, which it marks as general knowledge (log 18). -/
def Obligations.RoundIndexSelects : Prop :=
  (∀ (i : BitVec 6) (x y z : Word), mixFn i x y z = match i.toNat / 16 with
    | 0 => mixF x y z
    | 1 => mixG x y z
    | 2 => mixH x y z
    | _ => mixI x y z) ∧
  (∀ i : BitVec 6, some (kConst i) = (
    [0xD76AA478, 0xE8C7B756, 0x242070DB, 0xC1BDCEEE] ++
    [0xF57C0FAF, 0x4787C62A, 0xA8304613, 0xFD469501] ++
    [0x698098D8, 0x8B44F7AF, 0xFFFF5BB1, 0x895CD7BE] ++
    [0x6B901122, 0xFD987193, 0xA679438E, 0x49B40821] ++
    [0xF61E2562, 0xC040B340, 0x265E5A51, 0xE9B6C7AA] ++
    [0xD62F105D, 0x02441453, 0xD8A1E681, 0xE7D3FBC8] ++
    [0x21E1CDE6, 0xC33707D6, 0xF4D50D87, 0x455A14ED] ++
    [0xA9E3E905, 0xFCEFA3F8, 0x676F02D9, 0x8D2A4C8A] ++
    [0xFFFA3942, 0x8771F681, 0x6D9D6122, 0xFDE5380C] ++
    [0xA4BEEA44, 0x4BDECFA9, 0xF6BB4B60, 0xBEBFBC70] ++
    [0x289B7EC6, 0xEAA127FA, 0xD4EF3085, 0x04881D05] ++
    [0xD9D4D039, 0xE6DB99E5, 0x1FA27CF8, 0xC4AC5665] ++
    [0xF4292244, 0x432AFF97, 0xAB9423A7, 0xFC93A039] ++
    [0x655B59C3, 0x8F0CCC92, 0xFFEFF47D, 0x85845DD1] ++
    [0x6FA87E4F, 0xFE2CE6E0, 0xA3014314, 0x4E0811A1] ++
    [0xF7537E82, 0xBD3AF235, 0x2AD7D2BB, 0xEB86D391] : List Word)[i.toNat]?) ∧
  (∀ i : BitVec 6, (sAmount i).toNat =
    (match i.toNat / 16 with
      | 0 => [7, 12, 17, 22]
      | 1 => [5, 9, 14, 20]
      | 2 => [4, 11, 16, 23]
      | _ => [6, 10, 15, 21]).getD (i.toNat % 4) 0) ∧
  (∀ i : BitVec 6, (gIndex i).val = match i.toNat / 16 with
    | 0 => i.toNat
    | 1 => (5 * i.toNat + 1) % 16
    | 2 => (3 * i.toNat + 5) % 16
    | _ => (7 * i.toNat) % 16) ∧
  (∀ (n : Fin 16) (grp : Fin 4), ∃ i : BitVec 6, i.toNat / 16 = grp.val ∧ gIndex i = n)

/-- R109: one round, with the example the rule gives. -/
def Obligations.RoundStepFollowsTheEquation : Prop :=
  (∀ (i : BitVec 6) (q : Quad) (m : Block),
    (roundStep i q m).a = q.d ∧ (roundStep i q m).c = q.b ∧ (roundStep i q m).d = q.c ∧
    (roundStep i q m).b =
      q.b + rotl (q.a + mixFn i q.b q.c q.d + kConst i + m.get (gIndex i)) (sAmount i).toNat) ∧
  (∀ m : Block, m.get 0 = 0x00000080 →
    roundStep 0 { a := 0x67452301, b := 0xEFCDAB89, c := 0x98BADCFE, d := 0x10325476 } m =
      { a := 0x10325476, b := 0xA5202774, c := 0xEFCDAB89, d := 0x98BADCFE })

/-- R130: `Compress` is the 64 rounds in order from the incoming state, added back word-wise. -/
def Obligations.CompressIsSixtyFourRounds : Prop :=
  ∀ (hin : Quad) (m : Block), compress hin m =
    addQuad hin ((List.range 64).foldl (fun q i => roundStep (BitVec.ofNat 6 i) q m) hin)

/-- R24 and R131: a block's bytes and words agree: byte `j` of the buffer is byte `j` of the 64 bytes it was made of. -/
def Obligations.BlockBytesAndWordsAgree : Prop :=
  (∀ (blk : List Byte) (j : Nat), blk.length = 64 → j < 64 → some (blockByte (words blk) j) = blk[j]?) ∧
  (∀ m : Block, words ((List.range 64).map (blockByte m)) = m)

/-- R159, R160 and R162: the last block holds the bit length, low 64 bits, in words 14 and 15, low half first; when it is
the second final block its other words are 0. -/
def Obligations.LastBlockHoldsTheBitLength : Prop :=
  ∀ msg : List Byte,
    (lastBlock msg).get 14 = BitVec.ofNat 32 (8 * msg.length) ∧
    (lastBlock msg).get 15 = BitVec.ofNat 32 (8 * msg.length / 2 ^ 32) ∧
    (56 ≤ msg.length % 64 → ∀ n : Fin 16, n.val < 14 → (lastBlock msg).get n = 0)

/-- R155 to R161: `MD5` is the compression of the padded message, block after block from IV; the padded message has
`64 * N(L)` bytes. -/
def Obligations.DigestFoldsThePaddedMessage : Prop :=
  ∀ msg : List Byte,
    (paddedMessage msg).length = 64 * blockCount msg.length ∧
    md5 msg = compressFull (paddedMessage msg) (blockCount msg.length)

/-- R165: the sixteen digest bytes: byte `4k + m` is bits `8m+7 : 8m` of `H[k]`. -/
def Obligations.DigestBytesAreLittleEndian : Prop :=
  ∀ q : Quad, (digestBytes q).length = 16 ∧ ∀ (k m : Fin 4),
    (digestBytes q)[4 * k.val + m.val]? = some ((Quad.getWord q k).extractLsb' (8 * m.val) 8)

/-! ## Stores not visible yet -/

/-- U4, R67: a HASH started with its message in range and readable, while a store to the message is not visible to the
core's reads yet, runs to IDLE with ERR = 0 in the steps of a HASH of its length with no step between its core steps, and `H` and
`M` are then the next twenty draws (the stores not visible yet: log 26; the mark: log 9; the
draws: log 6). -/
def Obligations.HashOfStaleMessageFreesTheResults : Prop :=
  ∀ s : State, s.busy = false → s.msgAddr.toNat + s.len.toNat ≤ 2 ^ s.cfg.addrWidth →
    readBytes s s.msgAddr.toNat s.len.toNat ≠ none →
    (∃ p ∈ s.pendingStores, s.msgAddr.toNat ≤ p.1 ∧ p.1 < s.msgAddr.toNat + s.len.toNat) →
    ∃ t u, exec .hash s = .next t ∧ coreRun (2 + 66 * blockCount s.len.toNat) t = u ∧ u.seq = .idle ∧
      u.busy = false ∧ u.err = 0 ∧ u.bwerr = false ∧
      u.h = { a := Config.freeBits 32 s.draws, b := Config.freeBits 32 (s.draws + 1),
              c := Config.freeBits 32 (s.draws + 2), d := Config.freeBits 32 (s.draws + 3) } ∧
      u.m = Vector.ofFn (fun n => Config.freeBits 32 (s.draws + 4 + n.val)) ∧
      u.draws = s.draws + 20 ∧ HostSideKept s u
end

