-- ==== Sys2Proof/Laws/Memory.lean ====
section
/-! SUPPORT. The laws of sparse maps and of the message memory: reading after writing, and that every memory operation
keeps the canonical form. -/

namespace Sys2Proof.Machine

@[simp] theorem Cells.lookup_nil {β : Type} (k : Nat) : Cells.lookup k ([] : List (Nat × β)) = none := rfl

theorem Cells.lookup_cons {β : Type} (k : Nat) (c : Nat × β) (l : List (Nat × β)) :
    Cells.lookup k (c :: l) = if c.1 = k then some c.2 else Cells.lookup k l := rfl

/-- Reading after writing: the written value there, the old one elsewhere. -/
theorem Cells.lookup_insert {β : Type} (k k' : Nat) (b : β) (l : List (Nat × β)) :
    Cells.lookup k' (Cells.insert k b l) = if k' = k then some b else Cells.lookup k' l := by
  induction l with
  | nil => simp [Cells.insert, Cells.lookup_cons, eq_comm]
  | cons c l ih =>
    simp only [Cells.insert]
    split
    · simp [Cells.lookup_cons, eq_comm]
    · split
      · rename_i h; subst h; simp only [Cells.lookup_cons]; split <;> simp_all [eq_comm]
      · rename_i h; simp only [Cells.lookup_cons, ih]; split <;> simp_all

/-- A rising list above `lo` holds nothing at `lo` or below. -/
theorem Cells.lookup_of_le {β : Type} {lo k : Nat} {l : List (Nat × β)} (h : Cells.risingFrom (some lo) l = true)
    (hk : k ≤ lo) : Cells.lookup k l = none := by
  induction l generalizing lo with
  | nil => rfl
  | cons c l ih =>
    simp only [Cells.risingFrom, Bool.and_eq_true, decide_eq_true_eq] at h
    rw [Cells.lookup_cons, if_neg (by omega), ih h.2 (by omega)]

/-- Reading after erasing, in a canonical map. -/
theorem Cells.lookup_erase {β : Type} (k k' : Nat) {o : Option Nat} {l : List (Nat × β)}
    (h : Cells.risingFrom o l = true) :
    Cells.lookup k' (Cells.erase k l) = if k' = k then none else Cells.lookup k' l := by
  induction l generalizing o with
  | nil => simp [Cells.erase]
  | cons c l ih =>
    have hl : Cells.risingFrom (some c.1) l = true := by
      cases o <;> simp_all [Cells.risingFrom]
    simp only [Cells.erase]
    split
    · rename_i hc; subst hc; simp only [Cells.lookup_cons]
      by_cases hk : k' = c.1
      · simp [hk, Cells.lookup_of_le hl (Nat.le_refl _)]
      · simp [hk, Ne.symm hk]
    · simp only [Cells.lookup_cons, ih hl]; split <;> simp_all

theorem Cells.risingFrom_weaken {β : Type} {lo : Nat} {l : List (Nat × β)}
    (h : Cells.risingFrom (some lo) l = true) : Cells.risingFrom none l = true := by
  cases l <;> simp_all [Cells.risingFrom]

theorem Cells.risingFrom_mono {β : Type} {lo lo' : Nat} {l : List (Nat × β)} (hlo : lo' ≤ lo)
    (h : Cells.risingFrom (some lo) l = true) : Cells.risingFrom (some lo') l = true := by
  cases l with
  | nil => rfl
  | cons c l =>
    simp only [Cells.risingFrom, Bool.and_eq_true, decide_eq_true_eq] at h ⊢
    exact ⟨by omega, h.2⟩

/-- Writing keeps the canonical form. -/
theorem Cells.risingFrom_insert {β : Type} {o : Option Nat} (k : Nat) (b : β) {l : List (Nat × β)}
    (ho : ∀ lo, o = some lo → lo < k) (h : Cells.risingFrom o l = true) :
    Cells.risingFrom o (Cells.insert k b l) = true := by
  induction l generalizing o with
  | nil => cases o <;> simp_all [Cells.insert, Cells.risingFrom]
  | cons c l ih =>
    have hl : Cells.risingFrom (some c.1) l = true := by cases o <;> simp_all [Cells.risingFrom]
    have hc : ∀ lo, o = some lo → lo < c.1 := by cases o <;> simp_all [Cells.risingFrom]
    simp only [Cells.insert]
    split
    · cases o <;> simp_all [Cells.risingFrom]
    · split
      · rename_i h1; subst h1; cases o <;> simp_all [Cells.risingFrom]
      · have := ih (o := some c.1) (by intro lo hlo; cases hlo; omega) hl
        cases o <;> simp_all [Cells.risingFrom]

/-- Erasing keeps the canonical form. -/
theorem Cells.risingFrom_erase {β : Type} {o : Option Nat} (k : Nat) {l : List (Nat × β)}
    (h : Cells.risingFrom o l = true) : Cells.risingFrom o (Cells.erase k l) = true := by
  induction l generalizing o with
  | nil => cases o <;> rfl
  | cons c l ih =>
    have hl : Cells.risingFrom (some c.1) l = true := by cases o <;> simp_all [Cells.risingFrom]
    simp only [Cells.erase]
    split
    · cases o with
      | none => exact Cells.risingFrom_weaken hl
      | some lo =>
        simp only [Cells.risingFrom, Bool.and_eq_true, decide_eq_true_eq] at h
        exact Cells.risingFrom_mono (by omega) hl
    · have := ih hl; cases o <;> simp_all [Cells.risingFrom]

theorem Cells.all_insert {β : Type} (p : Nat × β → Bool) (k : Nat) (b : β) (l : List (Nat × β))
    (hp : p (k, b) = true) (h : l.all p = true) : (Cells.insert k b l).all p = true := by
  induction l with
  | nil => simp [Cells.insert, hp]
  | cons c l ih =>
    simp only [List.all_cons, Bool.and_eq_true] at h
    simp only [Cells.insert]
    split
    · simp [hp, h.1, h.2]
    · split <;> simp [hp, h.1, h.2, ih]

theorem Cells.all_erase {β : Type} (p : Nat × β → Bool) (k : Nat) (l : List (Nat × β))
    (h : l.all p = true) : (Cells.erase k l).all p = true := by
  induction l with
  | nil => rfl
  | cons c l ih =>
    simp only [List.all_cons, Bool.and_eq_true] at h
    simp only [Cells.erase]
    split <;> simp [h.1, h.2, ih]

/-- The one operation that changes message memory keeps its canonical form. -/
theorem Memory.wf_set (width addr : Nat) (byte : Option Byte) {mem : List Host.Cell}
    (h : Memory.wf width mem = true) : Memory.wf width (Memory.set width addr byte mem) = true := by
  simp only [Memory.wf, Bool.and_eq_true] at h ⊢
  unfold Memory.set
  split
  · rename_i ha
    cases byte with
    | some b =>
      exact ⟨Cells.risingFrom_insert addr b (by simp) h.1, Cells.all_insert _ _ _ _ (by simpa using ha) h.2⟩
    | none => exact ⟨Cells.risingFrom_erase addr h.1, Cells.all_erase _ _ _ h.2⟩
  · exact h

/-- Message memory is canonical at reset. -/
theorem reset_memory_wf : Memory.wf State.reset.cfg.addrWidth State.reset.msgMem = true := rfl

/-- `memRead` reads nothing but the message memory and the address width. -/
theorem memRead_congr {s t : State} (hm : t.msgMem = s.msgMem) (hc : t.cfg = s.cfg) (a : Nat) :
    memRead t a = memRead s a := by simp [memRead, hm, hc]

/-- `ReadBytes` depends on the bytes it reads alone. -/
theorem readBytes_congr {s t : State} (n : Nat) : ∀ a : Nat,
    (∀ k, k < n → memRead t (a + k) = memRead s (a + k)) → readBytes t a n = readBytes s a n := by
  induction n with
  | zero => intro a _; rfl
  | succ n ih =>
    intro a h
    have h0 := h 0 (by omega)
    have h1 := ih (a + 1) (fun k hk => by have := h (k + 1) (by omega); rwa [show a + (k + 1) = a + 1 + k by omega] at this)
    simp only [Nat.add_zero] at h0
    simp only [readBytes, h0, h1]

/-- What `ReadBytes` returns has the length asked for. -/
theorem readBytes_length {s : State} (n : Nat) : ∀ {a : Nat} {bs : List Byte},
    readBytes s a n = some bs → bs.length = n := by
  induction n with
  | zero => intro a bs h; simp only [readBytes, Option.some.injEq] at h; simp [← h]
  | succ n ih =>
    intro a bs h
    simp only [readBytes] at h
    split at h
    · cases h
    · split at h
      · cases h
      · rename_i hr; simp only [Option.some.injEq] at h; simp [← h, ih hr]

/-- Reading `m + n` bytes is reading `m` and then `n`. -/
theorem readBytes_append {s : State} (m n : Nat) : ∀ a : Nat, readBytes s a (m + n) =
    (readBytes s a m).bind (fun xs => (readBytes s (a + m) n).map (fun ys => xs ++ ys)) := by
  induction m with
  | zero => intro a; simp [readBytes]
  | succ m ih =>
    intro a
    have e : m + 1 + n = (m + n) + 1 := by omega
    rw [e]
    simp only [readBytes]
    cases memRead s a with
    | none => rfl
    | some b =>
      simp only [ih (a + 1), show a + (m + 1) = a + 1 + m by omega]
      cases readBytes s (a + 1) m with
      | none => rfl
      | some xs =>
        cases readBytes s (a + 1 + m) n with
        | none => rfl
        | some ys => rfl

end Sys2Proof.Machine
end

