-- ==== Sys2Proof/Laws/State.lean ====
section
/-! SUPPORT. What each shared update of the state leaves in each field, one lemma per field per update, so that no proof
unfolds a record update. Fields that become free values have no lemma. -/

namespace Sys2Proof.Machine

/-! `dropWrite` -/

@[simp] theorem dropWrite_h (s : State) : (dropWrite s).h = s.h := rfl
@[simp] theorem dropWrite_w (s : State) : (dropWrite s).w = s.w := rfl
@[simp] theorem dropWrite_m (s : State) : (dropWrite s).m = s.m := rfl
@[simp] theorem dropWrite_msgAddr (s : State) : (dropWrite s).msgAddr = s.msgAddr := rfl
@[simp] theorem dropWrite_len (s : State) : (dropWrite s).len = s.len := rfl
@[simp] theorem dropWrite_busy (s : State) : (dropWrite s).busy = s.busy := rfl
@[simp] theorem dropWrite_err (s : State) : (dropWrite s).err = s.err := rfl
@[simp] theorem dropWrite_bwerr (s : State) : (dropWrite s).bwerr = true := rfl
@[simp] theorem dropWrite_seq (s : State) : (dropWrite s).seq = s.seq := rfl
@[simp] theorem dropWrite_i (s : State) : (dropWrite s).i = s.i := rfl
@[simp] theorem dropWrite_mode (s : State) : (dropWrite s).mode = s.mode := rfl
@[simp] theorem dropWrite_phase (s : State) : (dropWrite s).phase = s.phase := rfl
@[simp] theorem dropWrite_mbase (s : State) : (dropWrite s).mbase = s.mbase := rfl
@[simp] theorem dropWrite_mlen (s : State) : (dropWrite s).mlen = s.mlen := rfl
@[simp] theorem dropWrite_off (s : State) : (dropWrite s).off = s.off := rfl
@[simp] theorem dropWrite_msgMem (s : State) : (dropWrite s).msgMem = s.msgMem := rfl
@[simp] theorem dropWrite_pendingStores (s : State) : (dropWrite s).pendingStores = s.pendingStores := rfl
@[simp] theorem dropWrite_cfg (s : State) : (dropWrite s).cfg = s.cfg := rfl
@[simp] theorem dropWrite_hostProg (s : State) : (dropWrite s).hostProg = s.hostProg := rfl
@[simp] theorem dropWrite_hostPc (s : State) : (dropWrite s).hostPc = s.hostPc := rfl
@[simp] theorem dropWrite_hostVars (s : State) : (dropWrite s).hostVars = s.hostVars := rfl
@[simp] theorem dropWrite_turns (s : State) : (dropWrite s).turns = s.turns := rfl
@[simp] theorem dropWrite_draws (s : State) : (dropWrite s).draws = s.draws := rfl
@[simp] theorem dropWrite_msgDisturbed (s : State) : (dropWrite s).msgDisturbed = s.msgDisturbed := rfl

/-! `startCommand` -/

@[simp] theorem startCommand_h (q : Seq) (s : State) : (startCommand q s).h = s.h := rfl
@[simp] theorem startCommand_w (q : Seq) (s : State) : (startCommand q s).w = s.w := rfl
@[simp] theorem startCommand_m (q : Seq) (s : State) : (startCommand q s).m = s.m := rfl
@[simp] theorem startCommand_msgAddr (q : Seq) (s : State) : (startCommand q s).msgAddr = s.msgAddr := rfl
@[simp] theorem startCommand_len (q : Seq) (s : State) : (startCommand q s).len = s.len := rfl
@[simp] theorem startCommand_busy (q : Seq) (s : State) : (startCommand q s).busy = true := rfl
@[simp] theorem startCommand_err (q : Seq) (s : State) : (startCommand q s).err = errNone := rfl
@[simp] theorem startCommand_bwerr (q : Seq) (s : State) : (startCommand q s).bwerr = false := rfl
@[simp] theorem startCommand_seq (q : Seq) (s : State) : (startCommand q s).seq = q := rfl
@[simp] theorem startCommand_i (q : Seq) (s : State) : (startCommand q s).i = s.i := rfl
@[simp] theorem startCommand_mode (q : Seq) (s : State) : (startCommand q s).mode = s.mode := rfl
@[simp] theorem startCommand_phase (q : Seq) (s : State) : (startCommand q s).phase = s.phase := rfl
@[simp] theorem startCommand_mbase (q : Seq) (s : State) : (startCommand q s).mbase = s.mbase := rfl
@[simp] theorem startCommand_mlen (q : Seq) (s : State) : (startCommand q s).mlen = s.mlen := rfl
@[simp] theorem startCommand_off (q : Seq) (s : State) : (startCommand q s).off = s.off := rfl
@[simp] theorem startCommand_msgMem (q : Seq) (s : State) : (startCommand q s).msgMem = s.msgMem := rfl
@[simp] theorem startCommand_pendingStores (q : Seq) (s : State) : (startCommand q s).pendingStores = s.pendingStores := rfl
@[simp] theorem startCommand_cfg (q : Seq) (s : State) : (startCommand q s).cfg = s.cfg := rfl
@[simp] theorem startCommand_hostProg (q : Seq) (s : State) : (startCommand q s).hostProg = s.hostProg := rfl
@[simp] theorem startCommand_hostPc (q : Seq) (s : State) : (startCommand q s).hostPc = s.hostPc := rfl
@[simp] theorem startCommand_hostVars (q : Seq) (s : State) : (startCommand q s).hostVars = s.hostVars := rfl
@[simp] theorem startCommand_turns (q : Seq) (s : State) : (startCommand q s).turns = s.turns := rfl
@[simp] theorem startCommand_draws (q : Seq) (s : State) : (startCommand q s).draws = s.draws := rfl
@[simp] theorem startCommand_msgDisturbed (q : Seq) (s : State) : (startCommand q s).msgDisturbed = (q == .hstart && staleMessage s) := rfl

/-! `rejectCommand` -/

@[simp] theorem rejectCommand_h (c : BitVec 3) (s : State) : (rejectCommand c s).h = s.h := rfl
@[simp] theorem rejectCommand_w (c : BitVec 3) (s : State) : (rejectCommand c s).w = s.w := rfl
@[simp] theorem rejectCommand_m (c : BitVec 3) (s : State) : (rejectCommand c s).m = s.m := rfl
@[simp] theorem rejectCommand_msgAddr (c : BitVec 3) (s : State) : (rejectCommand c s).msgAddr = s.msgAddr := rfl
@[simp] theorem rejectCommand_len (c : BitVec 3) (s : State) : (rejectCommand c s).len = s.len := rfl
@[simp] theorem rejectCommand_busy (c : BitVec 3) (s : State) : (rejectCommand c s).busy = s.busy := rfl
@[simp] theorem rejectCommand_err (c : BitVec 3) (s : State) : (rejectCommand c s).err = c := rfl
@[simp] theorem rejectCommand_bwerr (c : BitVec 3) (s : State) : (rejectCommand c s).bwerr = false := rfl
@[simp] theorem rejectCommand_seq (c : BitVec 3) (s : State) : (rejectCommand c s).seq = s.seq := rfl
@[simp] theorem rejectCommand_i (c : BitVec 3) (s : State) : (rejectCommand c s).i = s.i := rfl
@[simp] theorem rejectCommand_mode (c : BitVec 3) (s : State) : (rejectCommand c s).mode = s.mode := rfl
@[simp] theorem rejectCommand_phase (c : BitVec 3) (s : State) : (rejectCommand c s).phase = s.phase := rfl
@[simp] theorem rejectCommand_mbase (c : BitVec 3) (s : State) : (rejectCommand c s).mbase = s.mbase := rfl
@[simp] theorem rejectCommand_mlen (c : BitVec 3) (s : State) : (rejectCommand c s).mlen = s.mlen := rfl
@[simp] theorem rejectCommand_off (c : BitVec 3) (s : State) : (rejectCommand c s).off = s.off := rfl
@[simp] theorem rejectCommand_msgMem (c : BitVec 3) (s : State) : (rejectCommand c s).msgMem = s.msgMem := rfl
@[simp] theorem rejectCommand_pendingStores (c : BitVec 3) (s : State) : (rejectCommand c s).pendingStores = s.pendingStores := rfl
@[simp] theorem rejectCommand_cfg (c : BitVec 3) (s : State) : (rejectCommand c s).cfg = s.cfg := rfl
@[simp] theorem rejectCommand_hostProg (c : BitVec 3) (s : State) : (rejectCommand c s).hostProg = s.hostProg := rfl
@[simp] theorem rejectCommand_hostPc (c : BitVec 3) (s : State) : (rejectCommand c s).hostPc = s.hostPc := rfl
@[simp] theorem rejectCommand_hostVars (c : BitVec 3) (s : State) : (rejectCommand c s).hostVars = s.hostVars := rfl
@[simp] theorem rejectCommand_turns (c : BitVec 3) (s : State) : (rejectCommand c s).turns = s.turns := rfl
@[simp] theorem rejectCommand_draws (c : BitVec 3) (s : State) : (rejectCommand c s).draws = s.draws := rfl
@[simp] theorem rejectCommand_msgDisturbed (c : BitVec 3) (s : State) : (rejectCommand c s).msgDisturbed = s.msgDisturbed := rfl

/-! `endCommand` -/

@[simp] theorem endCommand_h (s : State) : (endCommand s).h = s.h := rfl
@[simp] theorem endCommand_w (s : State) : (endCommand s).w = s.w := rfl
@[simp] theorem endCommand_m (s : State) : (endCommand s).m = s.m := rfl
@[simp] theorem endCommand_msgAddr (s : State) : (endCommand s).msgAddr = s.msgAddr := rfl
@[simp] theorem endCommand_len (s : State) : (endCommand s).len = s.len := rfl
@[simp] theorem endCommand_busy (s : State) : (endCommand s).busy = false := rfl
@[simp] theorem endCommand_err (s : State) : (endCommand s).err = s.err := rfl
@[simp] theorem endCommand_bwerr (s : State) : (endCommand s).bwerr = s.bwerr := rfl
@[simp] theorem endCommand_seq (s : State) : (endCommand s).seq = .idle := rfl
@[simp] theorem endCommand_i (s : State) : (endCommand s).i = s.i := rfl
@[simp] theorem endCommand_mode (s : State) : (endCommand s).mode = s.mode := rfl
@[simp] theorem endCommand_phase (s : State) : (endCommand s).phase = s.phase := rfl
@[simp] theorem endCommand_mbase (s : State) : (endCommand s).mbase = s.mbase := rfl
@[simp] theorem endCommand_mlen (s : State) : (endCommand s).mlen = s.mlen := rfl
@[simp] theorem endCommand_off (s : State) : (endCommand s).off = s.off := rfl
@[simp] theorem endCommand_msgMem (s : State) : (endCommand s).msgMem = s.msgMem := rfl
@[simp] theorem endCommand_pendingStores (s : State) : (endCommand s).pendingStores = s.pendingStores := rfl
@[simp] theorem endCommand_cfg (s : State) : (endCommand s).cfg = s.cfg := rfl
@[simp] theorem endCommand_hostProg (s : State) : (endCommand s).hostProg = s.hostProg := rfl
@[simp] theorem endCommand_hostPc (s : State) : (endCommand s).hostPc = s.hostPc := rfl
@[simp] theorem endCommand_hostVars (s : State) : (endCommand s).hostVars = s.hostVars := rfl
@[simp] theorem endCommand_turns (s : State) : (endCommand s).turns = s.turns := rfl
@[simp] theorem endCommand_draws (s : State) : (endCommand s).draws = s.draws := rfl
@[simp] theorem endCommand_msgDisturbed (s : State) : (endCommand s).msgDisturbed = s.msgDisturbed := rfl

/-! `drawWord` -/

@[simp] theorem drawWord_h (s : State) : (drawWord s).2.h = s.h := rfl
@[simp] theorem drawWord_w (s : State) : (drawWord s).2.w = s.w := rfl
@[simp] theorem drawWord_m (s : State) : (drawWord s).2.m = s.m := rfl
@[simp] theorem drawWord_msgAddr (s : State) : (drawWord s).2.msgAddr = s.msgAddr := rfl
@[simp] theorem drawWord_len (s : State) : (drawWord s).2.len = s.len := rfl
@[simp] theorem drawWord_busy (s : State) : (drawWord s).2.busy = s.busy := rfl
@[simp] theorem drawWord_err (s : State) : (drawWord s).2.err = s.err := rfl
@[simp] theorem drawWord_bwerr (s : State) : (drawWord s).2.bwerr = s.bwerr := rfl
@[simp] theorem drawWord_seq (s : State) : (drawWord s).2.seq = s.seq := rfl
@[simp] theorem drawWord_i (s : State) : (drawWord s).2.i = s.i := rfl
@[simp] theorem drawWord_mode (s : State) : (drawWord s).2.mode = s.mode := rfl
@[simp] theorem drawWord_phase (s : State) : (drawWord s).2.phase = s.phase := rfl
@[simp] theorem drawWord_mbase (s : State) : (drawWord s).2.mbase = s.mbase := rfl
@[simp] theorem drawWord_mlen (s : State) : (drawWord s).2.mlen = s.mlen := rfl
@[simp] theorem drawWord_off (s : State) : (drawWord s).2.off = s.off := rfl
@[simp] theorem drawWord_msgMem (s : State) : (drawWord s).2.msgMem = s.msgMem := rfl
@[simp] theorem drawWord_pendingStores (s : State) : (drawWord s).2.pendingStores = s.pendingStores := rfl
@[simp] theorem drawWord_cfg (s : State) : (drawWord s).2.cfg = s.cfg := rfl
@[simp] theorem drawWord_hostProg (s : State) : (drawWord s).2.hostProg = s.hostProg := rfl
@[simp] theorem drawWord_hostPc (s : State) : (drawWord s).2.hostPc = s.hostPc := rfl
@[simp] theorem drawWord_hostVars (s : State) : (drawWord s).2.hostVars = s.hostVars := rfl
@[simp] theorem drawWord_turns (s : State) : (drawWord s).2.turns = s.turns := rfl
@[simp] theorem drawWord_draws (s : State) : (drawWord s).2.draws = s.draws + 1 := rfl
@[simp] theorem drawWord_msgDisturbed (s : State) : (drawWord s).2.msgDisturbed = s.msgDisturbed := rfl

/-! `drawResults` -/

@[simp] theorem drawResults_w (s : State) : (drawResults s).w = s.w := rfl
@[simp] theorem drawResults_msgAddr (s : State) : (drawResults s).msgAddr = s.msgAddr := rfl
@[simp] theorem drawResults_len (s : State) : (drawResults s).len = s.len := rfl
@[simp] theorem drawResults_busy (s : State) : (drawResults s).busy = s.busy := rfl
@[simp] theorem drawResults_err (s : State) : (drawResults s).err = s.err := rfl
@[simp] theorem drawResults_bwerr (s : State) : (drawResults s).bwerr = s.bwerr := rfl
@[simp] theorem drawResults_seq (s : State) : (drawResults s).seq = s.seq := rfl
@[simp] theorem drawResults_i (s : State) : (drawResults s).i = s.i := rfl
@[simp] theorem drawResults_mode (s : State) : (drawResults s).mode = s.mode := rfl
@[simp] theorem drawResults_phase (s : State) : (drawResults s).phase = s.phase := rfl
@[simp] theorem drawResults_mbase (s : State) : (drawResults s).mbase = s.mbase := rfl
@[simp] theorem drawResults_mlen (s : State) : (drawResults s).mlen = s.mlen := rfl
@[simp] theorem drawResults_off (s : State) : (drawResults s).off = s.off := rfl
@[simp] theorem drawResults_msgMem (s : State) : (drawResults s).msgMem = s.msgMem := rfl
@[simp] theorem drawResults_pendingStores (s : State) : (drawResults s).pendingStores = s.pendingStores := rfl
@[simp] theorem drawResults_cfg (s : State) : (drawResults s).cfg = s.cfg := rfl
@[simp] theorem drawResults_hostProg (s : State) : (drawResults s).hostProg = s.hostProg := rfl
@[simp] theorem drawResults_hostPc (s : State) : (drawResults s).hostPc = s.hostPc := rfl
@[simp] theorem drawResults_hostVars (s : State) : (drawResults s).hostVars = s.hostVars := rfl
@[simp] theorem drawResults_turns (s : State) : (drawResults s).turns = s.turns := rfl
@[simp] theorem drawResults_draws (s : State) : (drawResults s).draws = s.draws + 20 := rfl
@[simp] theorem drawResults_msgDisturbed (s : State) : (drawResults s).msgDisturbed = s.msgDisturbed := rfl

/-! `raiseBusError` -/

@[simp] theorem raiseBusError_w (s : State) : (raiseBusError s).w = s.w := rfl
@[simp] theorem raiseBusError_msgAddr (s : State) : (raiseBusError s).msgAddr = s.msgAddr := rfl
@[simp] theorem raiseBusError_len (s : State) : (raiseBusError s).len = s.len := rfl
@[simp] theorem raiseBusError_busy (s : State) : (raiseBusError s).busy = false := rfl
@[simp] theorem raiseBusError_err (s : State) : (raiseBusError s).err = errBus := rfl
@[simp] theorem raiseBusError_bwerr (s : State) : (raiseBusError s).bwerr = s.bwerr := rfl
@[simp] theorem raiseBusError_seq (s : State) : (raiseBusError s).seq = .idle := rfl
@[simp] theorem raiseBusError_i (s : State) : (raiseBusError s).i = s.i := rfl
@[simp] theorem raiseBusError_mode (s : State) : (raiseBusError s).mode = s.mode := rfl
@[simp] theorem raiseBusError_phase (s : State) : (raiseBusError s).phase = s.phase := rfl
@[simp] theorem raiseBusError_mbase (s : State) : (raiseBusError s).mbase = s.mbase := rfl
@[simp] theorem raiseBusError_mlen (s : State) : (raiseBusError s).mlen = s.mlen := rfl
@[simp] theorem raiseBusError_off (s : State) : (raiseBusError s).off = s.off := rfl
@[simp] theorem raiseBusError_msgMem (s : State) : (raiseBusError s).msgMem = s.msgMem := rfl
@[simp] theorem raiseBusError_pendingStores (s : State) : (raiseBusError s).pendingStores = s.pendingStores := rfl
@[simp] theorem raiseBusError_cfg (s : State) : (raiseBusError s).cfg = s.cfg := rfl
@[simp] theorem raiseBusError_hostProg (s : State) : (raiseBusError s).hostProg = s.hostProg := rfl
@[simp] theorem raiseBusError_hostPc (s : State) : (raiseBusError s).hostPc = s.hostPc := rfl
@[simp] theorem raiseBusError_hostVars (s : State) : (raiseBusError s).hostVars = s.hostVars := rfl
@[simp] theorem raiseBusError_turns (s : State) : (raiseBusError s).turns = s.turns := rfl
@[simp] theorem raiseBusError_draws (s : State) : (raiseBusError s).draws = s.draws + 20 := rfl
@[simp] theorem raiseBusError_msgDisturbed (s : State) : (raiseBusError s).msgDisturbed = s.msgDisturbed := rfl

/-! `startBlock` -/

@[simp] theorem startBlock_h (s : State) : (startBlock s).h = s.h := rfl
@[simp] theorem startBlock_w (s : State) : (startBlock s).w = s.h := rfl
@[simp] theorem startBlock_m (s : State) : (startBlock s).m = s.m := rfl
@[simp] theorem startBlock_msgAddr (s : State) : (startBlock s).msgAddr = s.msgAddr := rfl
@[simp] theorem startBlock_len (s : State) : (startBlock s).len = s.len := rfl
@[simp] theorem startBlock_busy (s : State) : (startBlock s).busy = s.busy := rfl
@[simp] theorem startBlock_err (s : State) : (startBlock s).err = s.err := rfl
@[simp] theorem startBlock_bwerr (s : State) : (startBlock s).bwerr = s.bwerr := rfl
@[simp] theorem startBlock_seq (s : State) : (startBlock s).seq = .round := rfl
@[simp] theorem startBlock_i (s : State) : (startBlock s).i = 0 := rfl
@[simp] theorem startBlock_mode (s : State) : (startBlock s).mode = s.mode := rfl
@[simp] theorem startBlock_phase (s : State) : (startBlock s).phase = s.phase := rfl
@[simp] theorem startBlock_mbase (s : State) : (startBlock s).mbase = s.mbase := rfl
@[simp] theorem startBlock_mlen (s : State) : (startBlock s).mlen = s.mlen := rfl
@[simp] theorem startBlock_off (s : State) : (startBlock s).off = s.off := rfl
@[simp] theorem startBlock_msgMem (s : State) : (startBlock s).msgMem = s.msgMem := rfl
@[simp] theorem startBlock_pendingStores (s : State) : (startBlock s).pendingStores = s.pendingStores := rfl
@[simp] theorem startBlock_cfg (s : State) : (startBlock s).cfg = s.cfg := rfl
@[simp] theorem startBlock_hostProg (s : State) : (startBlock s).hostProg = s.hostProg := rfl
@[simp] theorem startBlock_hostPc (s : State) : (startBlock s).hostPc = s.hostPc := rfl
@[simp] theorem startBlock_hostVars (s : State) : (startBlock s).hostVars = s.hostVars := rfl
@[simp] theorem startBlock_turns (s : State) : (startBlock s).turns = s.turns := rfl
@[simp] theorem startBlock_draws (s : State) : (startBlock s).draws = s.draws := rfl
@[simp] theorem startBlock_msgDisturbed (s : State) : (startBlock s).msgDisturbed = s.msgDisturbed := rfl

/-! `stepXstart` -/

@[simp] theorem stepXstart_h (s : State) : (stepXstart s).h = s.h := rfl
@[simp] theorem stepXstart_w (s : State) : (stepXstart s).w = s.h := rfl
@[simp] theorem stepXstart_m (s : State) : (stepXstart s).m = s.m := rfl
@[simp] theorem stepXstart_msgAddr (s : State) : (stepXstart s).msgAddr = s.msgAddr := rfl
@[simp] theorem stepXstart_len (s : State) : (stepXstart s).len = s.len := rfl
@[simp] theorem stepXstart_busy (s : State) : (stepXstart s).busy = s.busy := rfl
@[simp] theorem stepXstart_err (s : State) : (stepXstart s).err = s.err := rfl
@[simp] theorem stepXstart_bwerr (s : State) : (stepXstart s).bwerr = s.bwerr := rfl
@[simp] theorem stepXstart_seq (s : State) : (stepXstart s).seq = .round := rfl
@[simp] theorem stepXstart_i (s : State) : (stepXstart s).i = 0 := rfl
@[simp] theorem stepXstart_mode (s : State) : (stepXstart s).mode = .xform := rfl
@[simp] theorem stepXstart_phase (s : State) : (stepXstart s).phase = s.phase := rfl
@[simp] theorem stepXstart_mbase (s : State) : (stepXstart s).mbase = s.mbase := rfl
@[simp] theorem stepXstart_mlen (s : State) : (stepXstart s).mlen = s.mlen := rfl
@[simp] theorem stepXstart_off (s : State) : (stepXstart s).off = s.off := rfl
@[simp] theorem stepXstart_msgMem (s : State) : (stepXstart s).msgMem = s.msgMem := rfl
@[simp] theorem stepXstart_pendingStores (s : State) : (stepXstart s).pendingStores = s.pendingStores := rfl
@[simp] theorem stepXstart_cfg (s : State) : (stepXstart s).cfg = s.cfg := rfl
@[simp] theorem stepXstart_hostProg (s : State) : (stepXstart s).hostProg = s.hostProg := rfl
@[simp] theorem stepXstart_hostPc (s : State) : (stepXstart s).hostPc = s.hostPc := rfl
@[simp] theorem stepXstart_hostVars (s : State) : (stepXstart s).hostVars = s.hostVars := rfl
@[simp] theorem stepXstart_turns (s : State) : (stepXstart s).turns = s.turns := rfl
@[simp] theorem stepXstart_draws (s : State) : (stepXstart s).draws = s.draws := rfl
@[simp] theorem stepXstart_msgDisturbed (s : State) : (stepXstart s).msgDisturbed = s.msgDisturbed := rfl

/-! `stepNop1` -/

@[simp] theorem stepNop1_h (s : State) : (stepNop1 s).h = s.h := rfl
@[simp] theorem stepNop1_w (s : State) : (stepNop1 s).w = s.w := rfl
@[simp] theorem stepNop1_m (s : State) : (stepNop1 s).m = s.m := rfl
@[simp] theorem stepNop1_msgAddr (s : State) : (stepNop1 s).msgAddr = s.msgAddr := rfl
@[simp] theorem stepNop1_len (s : State) : (stepNop1 s).len = s.len := rfl
@[simp] theorem stepNop1_busy (s : State) : (stepNop1 s).busy = false := rfl
@[simp] theorem stepNop1_err (s : State) : (stepNop1 s).err = s.err := rfl
@[simp] theorem stepNop1_bwerr (s : State) : (stepNop1 s).bwerr = s.bwerr := rfl
@[simp] theorem stepNop1_seq (s : State) : (stepNop1 s).seq = .idle := rfl
@[simp] theorem stepNop1_i (s : State) : (stepNop1 s).i = s.i := rfl
@[simp] theorem stepNop1_mode (s : State) : (stepNop1 s).mode = s.mode := rfl
@[simp] theorem stepNop1_phase (s : State) : (stepNop1 s).phase = s.phase := rfl
@[simp] theorem stepNop1_mbase (s : State) : (stepNop1 s).mbase = s.mbase := rfl
@[simp] theorem stepNop1_mlen (s : State) : (stepNop1 s).mlen = s.mlen := rfl
@[simp] theorem stepNop1_off (s : State) : (stepNop1 s).off = s.off := rfl
@[simp] theorem stepNop1_msgMem (s : State) : (stepNop1 s).msgMem = s.msgMem := rfl
@[simp] theorem stepNop1_pendingStores (s : State) : (stepNop1 s).pendingStores = s.pendingStores := rfl
@[simp] theorem stepNop1_cfg (s : State) : (stepNop1 s).cfg = s.cfg := rfl
@[simp] theorem stepNop1_hostProg (s : State) : (stepNop1 s).hostProg = s.hostProg := rfl
@[simp] theorem stepNop1_hostPc (s : State) : (stepNop1 s).hostPc = s.hostPc := rfl
@[simp] theorem stepNop1_hostVars (s : State) : (stepNop1 s).hostVars = s.hostVars := rfl
@[simp] theorem stepNop1_turns (s : State) : (stepNop1 s).turns = s.turns := rfl
@[simp] theorem stepNop1_draws (s : State) : (stepNop1 s).draws = s.draws := rfl
@[simp] theorem stepNop1_msgDisturbed (s : State) : (stepNop1 s).msgDisturbed = s.msgDisturbed := rfl

/-! `stepInit1` -/

@[simp] theorem stepInit1_h (s : State) : (stepInit1 s).h = iv := rfl
@[simp] theorem stepInit1_w (s : State) : (stepInit1 s).w = s.w := rfl
@[simp] theorem stepInit1_m (s : State) : (stepInit1 s).m = s.m := rfl
@[simp] theorem stepInit1_msgAddr (s : State) : (stepInit1 s).msgAddr = s.msgAddr := rfl
@[simp] theorem stepInit1_len (s : State) : (stepInit1 s).len = s.len := rfl
@[simp] theorem stepInit1_busy (s : State) : (stepInit1 s).busy = false := rfl
@[simp] theorem stepInit1_err (s : State) : (stepInit1 s).err = s.err := rfl
@[simp] theorem stepInit1_bwerr (s : State) : (stepInit1 s).bwerr = s.bwerr := rfl
@[simp] theorem stepInit1_seq (s : State) : (stepInit1 s).seq = .idle := rfl
@[simp] theorem stepInit1_i (s : State) : (stepInit1 s).i = s.i := rfl
@[simp] theorem stepInit1_mode (s : State) : (stepInit1 s).mode = s.mode := rfl
@[simp] theorem stepInit1_phase (s : State) : (stepInit1 s).phase = s.phase := rfl
@[simp] theorem stepInit1_mbase (s : State) : (stepInit1 s).mbase = s.mbase := rfl
@[simp] theorem stepInit1_mlen (s : State) : (stepInit1 s).mlen = s.mlen := rfl
@[simp] theorem stepInit1_off (s : State) : (stepInit1 s).off = s.off := rfl
@[simp] theorem stepInit1_msgMem (s : State) : (stepInit1 s).msgMem = s.msgMem := rfl
@[simp] theorem stepInit1_pendingStores (s : State) : (stepInit1 s).pendingStores = s.pendingStores := rfl
@[simp] theorem stepInit1_cfg (s : State) : (stepInit1 s).cfg = s.cfg := rfl
@[simp] theorem stepInit1_hostProg (s : State) : (stepInit1 s).hostProg = s.hostProg := rfl
@[simp] theorem stepInit1_hostPc (s : State) : (stepInit1 s).hostPc = s.hostPc := rfl
@[simp] theorem stepInit1_hostVars (s : State) : (stepInit1 s).hostVars = s.hostVars := rfl
@[simp] theorem stepInit1_turns (s : State) : (stepInit1 s).turns = s.turns := rfl
@[simp] theorem stepInit1_draws (s : State) : (stepInit1 s).draws = s.draws := rfl
@[simp] theorem stepInit1_msgDisturbed (s : State) : (stepInit1 s).msgDisturbed = s.msgDisturbed := rfl

/-! `stepHstart` -/

@[simp] theorem stepHstart_h (s : State) : (stepHstart s).h = iv := rfl
@[simp] theorem stepHstart_w (s : State) : (stepHstart s).w = s.w := rfl
@[simp] theorem stepHstart_m (s : State) : (stepHstart s).m = s.m := rfl
@[simp] theorem stepHstart_msgAddr (s : State) : (stepHstart s).msgAddr = s.msgAddr := rfl
@[simp] theorem stepHstart_len (s : State) : (stepHstart s).len = s.len := rfl
@[simp] theorem stepHstart_busy (s : State) : (stepHstart s).busy = s.busy := rfl
@[simp] theorem stepHstart_err (s : State) : (stepHstart s).err = s.err := rfl
@[simp] theorem stepHstart_bwerr (s : State) : (stepHstart s).bwerr = s.bwerr := rfl
@[simp] theorem stepHstart_seq (s : State) : (stepHstart s).seq = .next := rfl
@[simp] theorem stepHstart_i (s : State) : (stepHstart s).i = s.i := rfl
@[simp] theorem stepHstart_mode (s : State) : (stepHstart s).mode = .hash := rfl
@[simp] theorem stepHstart_phase (s : State) : (stepHstart s).phase = .data := rfl
@[simp] theorem stepHstart_mbase (s : State) : (stepHstart s).mbase = s.msgAddr &&& lowmask s.cfg.addrWidth := rfl
@[simp] theorem stepHstart_mlen (s : State) : (stepHstart s).mlen = s.len := rfl
@[simp] theorem stepHstart_off (s : State) : (stepHstart s).off = 0 := rfl
@[simp] theorem stepHstart_msgMem (s : State) : (stepHstart s).msgMem = s.msgMem := rfl
@[simp] theorem stepHstart_pendingStores (s : State) : (stepHstart s).pendingStores = s.pendingStores := rfl
@[simp] theorem stepHstart_cfg (s : State) : (stepHstart s).cfg = s.cfg := rfl
@[simp] theorem stepHstart_hostProg (s : State) : (stepHstart s).hostProg = s.hostProg := rfl
@[simp] theorem stepHstart_hostPc (s : State) : (stepHstart s).hostPc = s.hostPc := rfl
@[simp] theorem stepHstart_hostVars (s : State) : (stepHstart s).hostVars = s.hostVars := rfl
@[simp] theorem stepHstart_turns (s : State) : (stepHstart s).turns = s.turns := rfl
@[simp] theorem stepHstart_draws (s : State) : (stepHstart s).draws = s.draws := rfl
@[simp] theorem stepHstart_msgDisturbed (s : State) : (stepHstart s).msgDisturbed = s.msgDisturbed := rfl

/-! `nextExtra` -/

@[simp] theorem nextExtra_h (s : State) : (nextExtra s).h = s.h := rfl
@[simp] theorem nextExtra_w (s : State) : (nextExtra s).w = s.h := rfl
@[simp] theorem nextExtra_m (s : State) : (nextExtra s).m = words (lengthBlock (lengthField s.mlen.toNat)) := rfl
@[simp] theorem nextExtra_msgAddr (s : State) : (nextExtra s).msgAddr = s.msgAddr := rfl
@[simp] theorem nextExtra_len (s : State) : (nextExtra s).len = s.len := rfl
@[simp] theorem nextExtra_busy (s : State) : (nextExtra s).busy = s.busy := rfl
@[simp] theorem nextExtra_err (s : State) : (nextExtra s).err = s.err := rfl
@[simp] theorem nextExtra_bwerr (s : State) : (nextExtra s).bwerr = s.bwerr := rfl
@[simp] theorem nextExtra_seq (s : State) : (nextExtra s).seq = .round := rfl
@[simp] theorem nextExtra_i (s : State) : (nextExtra s).i = 0 := rfl
@[simp] theorem nextExtra_mode (s : State) : (nextExtra s).mode = s.mode := rfl
@[simp] theorem nextExtra_phase (s : State) : (nextExtra s).phase = .last := rfl
@[simp] theorem nextExtra_mbase (s : State) : (nextExtra s).mbase = s.mbase := rfl
@[simp] theorem nextExtra_mlen (s : State) : (nextExtra s).mlen = s.mlen := rfl
@[simp] theorem nextExtra_off (s : State) : (nextExtra s).off = s.off := rfl
@[simp] theorem nextExtra_msgMem (s : State) : (nextExtra s).msgMem = s.msgMem := rfl
@[simp] theorem nextExtra_pendingStores (s : State) : (nextExtra s).pendingStores = s.pendingStores := rfl
@[simp] theorem nextExtra_cfg (s : State) : (nextExtra s).cfg = s.cfg := rfl
@[simp] theorem nextExtra_hostProg (s : State) : (nextExtra s).hostProg = s.hostProg := rfl
@[simp] theorem nextExtra_hostPc (s : State) : (nextExtra s).hostPc = s.hostPc := rfl
@[simp] theorem nextExtra_hostVars (s : State) : (nextExtra s).hostVars = s.hostVars := rfl
@[simp] theorem nextExtra_turns (s : State) : (nextExtra s).turns = s.turns := rfl
@[simp] theorem nextExtra_draws (s : State) : (nextExtra s).draws = s.draws := rfl
@[simp] theorem nextExtra_msgDisturbed (s : State) : (nextExtra s).msgDisturbed = s.msgDisturbed := rfl

/-! `resetMachine` -/

@[simp] theorem resetMachine_h (s : State) : (resetMachine s).h = iv := rfl
@[simp] theorem resetMachine_m (s : State) : (resetMachine s).m = Vector.replicate 16 0 := rfl
@[simp] theorem resetMachine_msgAddr (s : State) : (resetMachine s).msgAddr = 0 := rfl
@[simp] theorem resetMachine_len (s : State) : (resetMachine s).len = 0 := rfl
@[simp] theorem resetMachine_busy (s : State) : (resetMachine s).busy = false := rfl
@[simp] theorem resetMachine_err (s : State) : (resetMachine s).err = errNone := rfl
@[simp] theorem resetMachine_bwerr (s : State) : (resetMachine s).bwerr = false := rfl
@[simp] theorem resetMachine_seq (s : State) : (resetMachine s).seq = .idle := rfl
@[simp] theorem resetMachine_mbase (s : State) : (resetMachine s).mbase = Config.freeBits 64 (s.draws + 7) &&& lowmask s.cfg.addrWidth := rfl
@[simp] theorem resetMachine_msgMem (s : State) : (resetMachine s).msgMem = s.msgMem := rfl
@[simp] theorem resetMachine_pendingStores (s : State) : (resetMachine s).pendingStores = s.pendingStores := rfl
@[simp] theorem resetMachine_cfg (s : State) : (resetMachine s).cfg = s.cfg := rfl
@[simp] theorem resetMachine_hostProg (s : State) : (resetMachine s).hostProg = s.hostProg := rfl
@[simp] theorem resetMachine_hostPc (s : State) : (resetMachine s).hostPc = s.hostPc := rfl
@[simp] theorem resetMachine_hostVars (s : State) : (resetMachine s).hostVars = s.hostVars := rfl
@[simp] theorem resetMachine_turns (s : State) : (resetMachine s).turns = s.turns := rfl
@[simp] theorem resetMachine_draws (s : State) : (resetMachine s).draws = s.draws + 10 := rfl
@[simp] theorem resetMachine_msgDisturbed (s : State) : (resetMachine s).msgDisturbed = false := rfl

/-! `platformIssue` -/

@[simp] theorem platformIssue_h (a : Nat) (b : Option Byte) (s : State) : (platformIssue a b s).h = s.h := rfl
@[simp] theorem platformIssue_w (a : Nat) (b : Option Byte) (s : State) : (platformIssue a b s).w = s.w := rfl
@[simp] theorem platformIssue_m (a : Nat) (b : Option Byte) (s : State) : (platformIssue a b s).m = s.m := rfl
@[simp] theorem platformIssue_msgAddr (a : Nat) (b : Option Byte) (s : State) : (platformIssue a b s).msgAddr = s.msgAddr := rfl
@[simp] theorem platformIssue_len (a : Nat) (b : Option Byte) (s : State) : (platformIssue a b s).len = s.len := rfl
@[simp] theorem platformIssue_busy (a : Nat) (b : Option Byte) (s : State) : (platformIssue a b s).busy = s.busy := rfl
@[simp] theorem platformIssue_err (a : Nat) (b : Option Byte) (s : State) : (platformIssue a b s).err = s.err := rfl
@[simp] theorem platformIssue_bwerr (a : Nat) (b : Option Byte) (s : State) : (platformIssue a b s).bwerr = s.bwerr := rfl
@[simp] theorem platformIssue_seq (a : Nat) (b : Option Byte) (s : State) : (platformIssue a b s).seq = s.seq := rfl
@[simp] theorem platformIssue_i (a : Nat) (b : Option Byte) (s : State) : (platformIssue a b s).i = s.i := rfl
@[simp] theorem platformIssue_mode (a : Nat) (b : Option Byte) (s : State) : (platformIssue a b s).mode = s.mode := rfl
@[simp] theorem platformIssue_phase (a : Nat) (b : Option Byte) (s : State) : (platformIssue a b s).phase = s.phase := rfl
@[simp] theorem platformIssue_mbase (a : Nat) (b : Option Byte) (s : State) : (platformIssue a b s).mbase = s.mbase := rfl
@[simp] theorem platformIssue_mlen (a : Nat) (b : Option Byte) (s : State) : (platformIssue a b s).mlen = s.mlen := rfl
@[simp] theorem platformIssue_off (a : Nat) (b : Option Byte) (s : State) : (platformIssue a b s).off = s.off := rfl
@[simp] theorem platformIssue_msgMem (a : Nat) (b : Option Byte) (s : State) : (platformIssue a b s).msgMem = s.msgMem := rfl
@[simp] theorem platformIssue_pendingStores (a : Nat) (b : Option Byte) (s : State) : (platformIssue a b s).pendingStores = s.pendingStores ++ [(a, b)] := rfl
@[simp] theorem platformIssue_cfg (a : Nat) (b : Option Byte) (s : State) : (platformIssue a b s).cfg = s.cfg := rfl
@[simp] theorem platformIssue_hostProg (a : Nat) (b : Option Byte) (s : State) : (platformIssue a b s).hostProg = s.hostProg := rfl
@[simp] theorem platformIssue_hostPc (a : Nat) (b : Option Byte) (s : State) : (platformIssue a b s).hostPc = s.hostPc := rfl
@[simp] theorem platformIssue_hostVars (a : Nat) (b : Option Byte) (s : State) : (platformIssue a b s).hostVars = s.hostVars := rfl
@[simp] theorem platformIssue_turns (a : Nat) (b : Option Byte) (s : State) : (platformIssue a b s).turns = s.turns := rfl
@[simp] theorem platformIssue_draws (a : Nat) (b : Option Byte) (s : State) : (platformIssue a b s).draws = s.draws := rfl
@[simp] theorem platformIssue_msgDisturbed (a : Nat) (b : Option Byte) (s : State) : (platformIssue a b s).msgDisturbed = (s.msgDisturbed || (hashRunning s && inMessage s a)) := rfl

/-! `advanceHost` -/

@[simp] theorem advanceHost_h (s : State) : (advanceHost s).h = s.h := rfl
@[simp] theorem advanceHost_w (s : State) : (advanceHost s).w = s.w := rfl
@[simp] theorem advanceHost_m (s : State) : (advanceHost s).m = s.m := rfl
@[simp] theorem advanceHost_msgAddr (s : State) : (advanceHost s).msgAddr = s.msgAddr := rfl
@[simp] theorem advanceHost_len (s : State) : (advanceHost s).len = s.len := rfl
@[simp] theorem advanceHost_busy (s : State) : (advanceHost s).busy = s.busy := rfl
@[simp] theorem advanceHost_err (s : State) : (advanceHost s).err = s.err := rfl
@[simp] theorem advanceHost_bwerr (s : State) : (advanceHost s).bwerr = s.bwerr := rfl
@[simp] theorem advanceHost_seq (s : State) : (advanceHost s).seq = s.seq := rfl
@[simp] theorem advanceHost_i (s : State) : (advanceHost s).i = s.i := rfl
@[simp] theorem advanceHost_mode (s : State) : (advanceHost s).mode = s.mode := rfl
@[simp] theorem advanceHost_phase (s : State) : (advanceHost s).phase = s.phase := rfl
@[simp] theorem advanceHost_mbase (s : State) : (advanceHost s).mbase = s.mbase := rfl
@[simp] theorem advanceHost_mlen (s : State) : (advanceHost s).mlen = s.mlen := rfl
@[simp] theorem advanceHost_off (s : State) : (advanceHost s).off = s.off := rfl
@[simp] theorem advanceHost_msgMem (s : State) : (advanceHost s).msgMem = s.msgMem := rfl
@[simp] theorem advanceHost_pendingStores (s : State) : (advanceHost s).pendingStores = s.pendingStores := rfl
@[simp] theorem advanceHost_cfg (s : State) : (advanceHost s).cfg = s.cfg := rfl
@[simp] theorem advanceHost_hostProg (s : State) : (advanceHost s).hostProg = s.hostProg := rfl
@[simp] theorem advanceHost_hostPc (s : State) : (advanceHost s).hostPc = s.hostPc + 1 := rfl
@[simp] theorem advanceHost_hostVars (s : State) : (advanceHost s).hostVars = s.hostVars := rfl
@[simp] theorem advanceHost_turns (s : State) : (advanceHost s).turns = s.turns := rfl
@[simp] theorem advanceHost_draws (s : State) : (advanceHost s).draws = s.draws := rfl
@[simp] theorem advanceHost_msgDisturbed (s : State) : (advanceHost s).msgDisturbed = s.msgDisturbed := rfl

/-! `setHostVar` -/

@[simp] theorem setHostVar_h (t : Nat) (v : Word) (s : State) : (setHostVar t v s).h = s.h := rfl
@[simp] theorem setHostVar_w (t : Nat) (v : Word) (s : State) : (setHostVar t v s).w = s.w := rfl
@[simp] theorem setHostVar_m (t : Nat) (v : Word) (s : State) : (setHostVar t v s).m = s.m := rfl
@[simp] theorem setHostVar_msgAddr (t : Nat) (v : Word) (s : State) : (setHostVar t v s).msgAddr = s.msgAddr := rfl
@[simp] theorem setHostVar_len (t : Nat) (v : Word) (s : State) : (setHostVar t v s).len = s.len := rfl
@[simp] theorem setHostVar_busy (t : Nat) (v : Word) (s : State) : (setHostVar t v s).busy = s.busy := rfl
@[simp] theorem setHostVar_err (t : Nat) (v : Word) (s : State) : (setHostVar t v s).err = s.err := rfl
@[simp] theorem setHostVar_bwerr (t : Nat) (v : Word) (s : State) : (setHostVar t v s).bwerr = s.bwerr := rfl
@[simp] theorem setHostVar_seq (t : Nat) (v : Word) (s : State) : (setHostVar t v s).seq = s.seq := rfl
@[simp] theorem setHostVar_i (t : Nat) (v : Word) (s : State) : (setHostVar t v s).i = s.i := rfl
@[simp] theorem setHostVar_mode (t : Nat) (v : Word) (s : State) : (setHostVar t v s).mode = s.mode := rfl
@[simp] theorem setHostVar_phase (t : Nat) (v : Word) (s : State) : (setHostVar t v s).phase = s.phase := rfl
@[simp] theorem setHostVar_mbase (t : Nat) (v : Word) (s : State) : (setHostVar t v s).mbase = s.mbase := rfl
@[simp] theorem setHostVar_mlen (t : Nat) (v : Word) (s : State) : (setHostVar t v s).mlen = s.mlen := rfl
@[simp] theorem setHostVar_off (t : Nat) (v : Word) (s : State) : (setHostVar t v s).off = s.off := rfl
@[simp] theorem setHostVar_msgMem (t : Nat) (v : Word) (s : State) : (setHostVar t v s).msgMem = s.msgMem := rfl
@[simp] theorem setHostVar_pendingStores (t : Nat) (v : Word) (s : State) : (setHostVar t v s).pendingStores = s.pendingStores := rfl
@[simp] theorem setHostVar_cfg (t : Nat) (v : Word) (s : State) : (setHostVar t v s).cfg = s.cfg := rfl
@[simp] theorem setHostVar_hostProg (t : Nat) (v : Word) (s : State) : (setHostVar t v s).hostProg = s.hostProg := rfl
@[simp] theorem setHostVar_hostPc (t : Nat) (v : Word) (s : State) : (setHostVar t v s).hostPc = s.hostPc := rfl
@[simp] theorem setHostVar_hostVars (t : Nat) (v : Word) (s : State) : (setHostVar t v s).hostVars = Cells.insert t v s.hostVars := rfl
@[simp] theorem setHostVar_turns (t : Nat) (v : Word) (s : State) : (setHostVar t v s).turns = s.turns := rfl
@[simp] theorem setHostVar_draws (t : Nat) (v : Word) (s : State) : (setHostVar t v s).draws = s.draws := rfl
@[simp] theorem setHostVar_msgDisturbed (t : Nat) (v : Word) (s : State) : (setHostVar t v s).msgDisturbed = s.msgDisturbed := rfl

end Sys2Proof.Machine
end

