-- ==== Sys2Proof/Laws/Steps.lean ====
section
/-! SUPPORT. What each step function can do, said once: the core steps and their frames, taking a command, host writes
and reads, and the cases of a step. -/

namespace Sys2Proof.Machine

/-! ## Core steps -/

theorem coreStep_idle {s : State} (h : s.seq = .idle) : coreStep s = s := by simp [coreStep, h]
theorem coreStep_nop1 {s : State} (h : s.seq = .nop1) : coreStep s = stepNop1 s := by simp [coreStep, h]
theorem coreStep_init1 {s : State} (h : s.seq = .init1) : coreStep s = stepInit1 s := by simp [coreStep, h]
theorem coreStep_xstart {s : State} (h : s.seq = .xstart) : coreStep s = stepXstart s := by simp [coreStep, h]
theorem coreStep_hstart {s : State} (h : s.seq = .hstart) : coreStep s = stepHstart s := by simp [coreStep, h]
theorem coreStep_next {s : State} (h : s.seq = .next) : coreStep s = stepNext s := by simp [coreStep, h]
theorem coreStep_round {s : State} (h : s.seq = .round) : coreStep s = stepRound s := by simp [coreStep, h]
theorem coreStep_feed {s : State} (h : s.seq = .feed) : coreStep s = stepFeed s := by simp [coreStep, h]

/-- Everything a ROUND step can do (R136). -/
theorem stepRound_cases (s : State) :
    (s.i = 63 ∧ stepRound s = { s with w := roundStep s.i s.w s.m, seq := .feed }) ∨
    (s.i ≠ 63 ∧ stepRound s = { s with w := roundStep s.i s.w s.m, i := s.i + 1 }) := by
  unfold stepRound
  split
  · exact .inl ⟨‹_›, rfl⟩
  · exact .inr ⟨‹_›, rfl⟩

/-- Everything a FEED step can do (R137). -/
theorem stepFeed_cases (s : State) :
    (s.mode = .xform ∧ stepFeed s = endCommand { s with h := addQuad s.h s.w }) ∨
    (s.mode = .hash ∧ stepFeed s = { s with h := addQuad s.h s.w, seq := .next }) := by
  unfold stepFeed
  split <;> simp_all

/-- Everything a NEXT step can do (R174): the failed read, the three kinds of block, and the two ends of a HASH. -/
theorem stepNext_cases (s : State) :
    (s.phase = .data ∧ stepNext s = raiseBusError s) ∨
    (s.phase = .data ∧ 64 ≤ s.mlen.toNat - s.off.toNat ∧ ∃ bytes,
      readBytes s (s.mbase.toNat + s.off.toNat) 64 = some bytes ∧
      stepNext s = startBlock { s with m := words bytes, off := s.off + 64 }) ∨
    (s.phase = .data ∧ s.mlen.toNat - s.off.toNat ≤ 55 ∧ ∃ tail,
      readBytes s (s.mbase.toNat + s.off.toNat) (s.mlen.toNat - s.off.toNat) = some tail ∧
      stepNext s = startBlock { s with
        m := words (putLength (markerBlock tail) (lengthField s.mlen.toNat)), phase := .last,
        off := s.mlen.setWidth 65 }) ∨
    (s.phase = .data ∧ 55 < s.mlen.toNat - s.off.toNat ∧ s.mlen.toNat - s.off.toNat < 64 ∧ ∃ tail,
      readBytes s (s.mbase.toNat + s.off.toNat) (s.mlen.toNat - s.off.toNat) = some tail ∧
      stepNext s = startBlock { s with m := words (markerBlock tail), phase := .extra, off := s.mlen.setWidth 65 }) ∨
    (s.phase = .extra ∧ stepNext s = nextExtra s) ∨
    (s.phase = .last ∧ s.msgDisturbed = false ∧ stepNext s = endCommand s) ∨
    (s.phase = .last ∧ s.msgDisturbed = true ∧ stepNext s = endCommand (drawResults s)) := by
  unfold stepNext
  cases hp : s.phase with
  | data =>
    simp only [nextFull, nextFinal]
    split
    · split <;> simp_all
    · split
      · simp_all
      · split
        · simp_all
        · simp_all; omega
  | extra => simp
  | last => cases hd : s.msgDisturbed <;> simp [nextDone, hd]

/-- No core step writes the host's registers, the message memory, the parameters, the host or the schedule. -/
theorem coreStep_frame (s : State) :
    (coreStep s).msgAddr = s.msgAddr ∧ (coreStep s).len = s.len ∧ (coreStep s).bwerr = s.bwerr ∧
    (coreStep s).msgMem = s.msgMem ∧ (coreStep s).cfg = s.cfg ∧ (coreStep s).hostProg = s.hostProg ∧
    (coreStep s).hostPc = s.hostPc ∧ (coreStep s).hostVars = s.hostVars ∧ (coreStep s).turns = s.turns ∧
    (coreStep s).msgDisturbed = s.msgDisturbed ∧ (coreStep s).pendingStores = s.pendingStores := by
  cases h : s.seq with
  | idle => simp [coreStep_idle h]
  | nop1 => simp [coreStep_nop1 h]
  | init1 => simp [coreStep_init1 h]
  | xstart => simp [coreStep_xstart h]
  | hstart => simp [coreStep_hstart h]
  | round => rw [coreStep_round h]; rcases stepRound_cases s with ⟨_, e⟩ | ⟨_, e⟩ <;> simp [e]
  | feed => rw [coreStep_feed h]; rcases stepFeed_cases s with ⟨_, e⟩ | ⟨_, e⟩ <;> simp [e]
  | next =>
    rw [coreStep_next h]
    rcases stepNext_cases s with ⟨_, e⟩ | ⟨_, _, _, _, e⟩ | ⟨_, _, _, _, e⟩ | ⟨_, _, _, _, _, e⟩ | ⟨_, e⟩ | ⟨_, _, e⟩ |
      ⟨_, _, e⟩ <;> simp [e]

@[simp] theorem coreStep_msgAddr (s : State) : (coreStep s).msgAddr = s.msgAddr := (coreStep_frame s).1
@[simp] theorem coreStep_len (s : State) : (coreStep s).len = s.len := (coreStep_frame s).2.1
@[simp] theorem coreStep_bwerr (s : State) : (coreStep s).bwerr = s.bwerr := (coreStep_frame s).2.2.1
@[simp] theorem coreStep_msgMem (s : State) : (coreStep s).msgMem = s.msgMem := (coreStep_frame s).2.2.2.1
@[simp] theorem coreStep_cfg (s : State) : (coreStep s).cfg = s.cfg := (coreStep_frame s).2.2.2.2.1
@[simp] theorem coreStep_hostProg (s : State) : (coreStep s).hostProg = s.hostProg := (coreStep_frame s).2.2.2.2.2.1
@[simp] theorem coreStep_hostPc (s : State) : (coreStep s).hostPc = s.hostPc := (coreStep_frame s).2.2.2.2.2.2.1
@[simp] theorem coreStep_hostVars (s : State) : (coreStep s).hostVars = s.hostVars :=
  (coreStep_frame s).2.2.2.2.2.2.2.1
@[simp] theorem coreStep_turns (s : State) : (coreStep s).turns = s.turns := (coreStep_frame s).2.2.2.2.2.2.2.2.1
@[simp] theorem coreStep_msgDisturbed (s : State) : (coreStep s).msgDisturbed = s.msgDisturbed :=
  (coreStep_frame s).2.2.2.2.2.2.2.2.2.1
@[simp] theorem coreStep_pendingStores (s : State) : (coreStep s).pendingStores = s.pendingStores :=
  (coreStep_frame s).2.2.2.2.2.2.2.2.2.2

@[simp] theorem coreRun_zero (s : State) : coreRun 0 s = s := rfl
theorem coreRun_succ (n : Nat) (s : State) : coreRun (n + 1) s = coreRun n (coreStep s) := rfl

/-- Core steps in a row add up. -/
theorem coreRun_add (m n : Nat) (s : State) : coreRun (m + n) s = coreRun n (coreRun m s) := by
  induction m generalizing s with
  | zero => simp
  | succ m ih => rw [show m + 1 + n = (m + n) + 1 by omega, coreRun_succ, ih, coreRun_succ]

/-! ## Taking a command -/

/-- Everything a command's meaning can do: the write dropped, the command started, or HASH out of range (R153, R196). -/
theorem exec_cases {i : Instr} {s t : State} (h : exec i s = .next t) :
    (s.busy = true ∧ t = dropWrite s) ∨
    (s.busy = false ∧ ∃ q, q ≠ .idle ∧ (q = .hstart → messageInRange s = true) ∧ q ≠ .next ∧ q ≠ .round ∧ q ≠ .feed ∧
      t = startCommand q s) ∨
    (s.busy = false ∧ i = .hash ∧ messageInRange s = false ∧ t = rejectCommand errRange s) := by
  have inj : ∀ {a b : State}, (Host.Outcome.next a : Host.Outcome State Fault Refusal) = .next b → b = a :=
    fun e => by cases e; rfl
  cases hb : s.busy with
  | true =>
    left; cases i <;> simp only [exec, execNop, execInit, execTransform, execHash, takeStart, hb, if_true] at h <;>
      exact ⟨rfl, inj h⟩
  | false =>
    right
    cases i with
    | nop => simp only [exec, execNop, takeStart, hb] at h; exact .inl ⟨rfl, .nop1, by simp, by simp, by simp, by simp, by simp, inj h⟩
    | init => simp only [exec, execInit, takeStart, hb] at h; exact .inl ⟨rfl, .init1, by simp, by simp, by simp, by simp, by simp, inj h⟩
    | transform => simp only [exec, execTransform, takeStart, hb] at h; exact .inl ⟨rfl, .xstart, by simp, by simp, by simp, by simp, by simp, inj h⟩
    | hash =>
      simp only [exec, execHash, hb, Bool.false_eq_true, if_false] at h
      cases hr : messageInRange s with
      | true => simp only [hr, if_true] at h; exact .inl ⟨rfl, .hstart, by simp, by simp, by simp, by simp, by simp, inj h⟩
      | false => simp only [hr, Bool.false_eq_true, if_false] at h; exact .inr ⟨rfl, rfl, rfl, inj h⟩

/-- No command's meaning stops. -/
theorem exec_answers (i : Instr) (s : State) : ∃ t, exec i s = .next t := by
  cases i with
  | nop => exact ⟨_, rfl⟩
  | init => exact ⟨_, rfl⟩
  | transform => exact ⟨_, rfl⟩
  | hash => simp only [exec, execHash]; split; exact ⟨_, rfl⟩; split <;> exact ⟨_, rfl⟩

/-! ## Host accesses -/

/-- Everything a host write can do (R55, R56). -/
theorem busWrite_cases {off : BitVec 7} {v : Word} {s t : State} (h : busWrite off v s = .next t) :
    (s.busy = true ∧ t = dropWrite s) ∨
    (s.busy = false ∧ t = s) ∨
    (s.busy = false ∧ t = rejectCommand errIllegalCmd s) ∨
    (s.busy = false ∧ ∃ i, exec i s = .next t) ∨
    (s.busy = false ∧ t = { s with msgAddr := setLo s.msgAddr (v &&& loHalf (lowmask s.cfg.addrWidth)) }) ∨
    (s.busy = false ∧ t = { s with msgAddr := setHi s.msgAddr (v &&& hiHalf (lowmask s.cfg.addrWidth)) }) ∨
    (s.busy = false ∧ ∃ l, t = { s with len := l }) ∨
    (s.busy = false ∧ ∃ q, t = { s with h := q }) ∨
    (s.busy = false ∧ ∃ b, t = { s with m := b }) := by
  have inj : ∀ {a b : State}, (Host.Outcome.next a : Host.Outcome State Fault Refusal) = .next b → b = a :=
    fun e => by cases e; rfl
  unfold busWrite at h
  split at h
  · exact .inl ⟨‹_›, inj h⟩
  · have hb : s.busy = false := by simpa using ‹¬ s.busy = true›
    right
    split at h
    · unfold takeCommand at h
      split at h
      · exact .inr (.inl ⟨hb, inj h⟩)
      · exact .inr (.inr (.inl ⟨hb, _, h⟩))
    · exact .inl ⟨hb, inj h⟩
    · exact .inr (.inr (.inr (.inl ⟨hb, inj h⟩)))
    · exact .inr (.inr (.inr (.inr (.inl ⟨hb, inj h⟩))))
    · exact .inr (.inr (.inr (.inr (.inr (.inl ⟨hb, _, inj h⟩)))))
    · exact .inr (.inr (.inr (.inr (.inr (.inl ⟨hb, _, inj h⟩)))))
    · exact .inr (.inr (.inr (.inr (.inr (.inr (.inl ⟨hb, _, inj h⟩))))))
    · exact .inr (.inr (.inr (.inr (.inr (.inr (.inr ⟨hb, _, inj h⟩))))))
    · exact .inl ⟨hb, inj h⟩

/-- A host read changes nothing but the number of draws (R53, R54). -/
theorem busRead_cases {off : BitVec 7} {s : State} {r : Word × State} (h : busRead off s = .next r) :
    r.2 = s ∨ r.2 = { s with draws := s.draws + 1 } := by
  have inj : ∀ {a b : Word × State}, (Host.Outcome.next a : Host.Outcome (Word × State) Fault Refusal) = .next b → b = a :=
    fun e => by cases e; rfl
  unfold busRead at h
  split at h
  case h_2 => split at h <;> [(rw [inj h]; exact .inl rfl); cases h]
  case h_7 => rw [inj h]; unfold readOrDraw; split <;> [exact .inr rfl; exact .inl rfl]
  case h_8 => rw [inj h]; unfold readOrDraw; split <;> [exact .inr rfl; exact .inl rfl]
  all_goals rw [inj h]; exact .inl rfl

/-- Everything a host step can do: the host's own fields and the draw count move, or its line's window write happens. -/
theorem hostStep_cases {s t : State} (h : hostStep s = .next t) :
    (∃ pc vars d, (Cells.risingFrom none s.hostVars = true → Cells.risingFrom none vars = true) ∧
      t = { s with hostPc := pc, hostVars := vars, draws := d }) ∨
    (∃ op off v, s.hostProg[s.hostPc]? = some op ∧ lineWrite s.cfg op = some (off, v) ∧
      busWrite off v (advanceHost s) = .next t) := by
  have inj : ∀ {a b : State}, (Host.Outcome.next a : Host.Outcome State Fault Refusal) = .next b → b = a :=
    fun e => by cases e; rfl
  have rd : ∀ {off u}, hostRead off u (advanceHost s) = .next t →
      ∃ pc vars d, (Cells.risingFrom none s.hostVars = true → Cells.risingFrom none vars = true) ∧
        t = { s with hostPc := pc, hostVars := vars, draws := d } := by
    intro off u h
    unfold hostRead at h
    split at h
    · rename_i r hr
      have e := inj h
      refine ⟨s.hostPc + 1, Cells.insert u r.1 s.hostVars, t.draws,
        Cells.risingFrom_insert u r.1 (by simp), ?_⟩
      rcases busRead_cases hr with e' | e' <;> rw [e, e'] <;> rfl
    · cases h
    · cases h
  unfold hostStep at h
  split at h
  · exact .inl ⟨s.hostPc, s.hostVars, s.draws, id, inj h⟩
  · rename_i op hop
    unfold hostOpStep at h
    split at h
    · exact .inl ⟨s.hostPc + 1, s.hostVars, s.draws, id, inj h⟩
    · exact .inr ⟨_, _, _, hop, rfl, h⟩
    · exact .inl (rd h)
    · unfold hostBranch at h
      split at h
      · exact .inl ⟨s.hostPc + 1, s.hostVars, s.draws, id, inj h⟩
      · split at h
        · exact .inl ⟨_, s.hostVars, s.draws, id, inj h⟩
        · cases h
    · exact .inl ⟨s.hostPc, s.hostVars, s.draws, id, inj h⟩
    · unfold rawWrite at h
      split at h
      · rename_i off hoff
        exact .inr ⟨_, off, _, hop, by simp only [lineWrite]; rw [show supportedOffset s.cfg _ _ = some off from hoff], h⟩
      · split at h
        · cases h
        · exact .inl ⟨s.hostPc + 1, s.hostVars, s.draws, id, inj h⟩
    · unfold rawRead at h
      split at h
      · exact .inl (rd h)
      · split at h
        · cases h
        · rename_i t' _ _ _
          refine .inl ⟨s.hostPc + 1, Cells.insert _ (Config.freeBits 32 s.draws) s.hostVars, s.draws + 1,
            Cells.risingFrom_insert _ _ (by simp), inj h⟩

/-! ## A step -/

/-- Everything a step can do: the agent whose turn it is takes its step, in the state with that turn removed; with no
turn left, the core while it runs, else the host. -/
theorem step_cases {s t : State} (h : step s = .next t) :
    (s.turns = [] ∧ s.seq = .idle ∧ hostStep s = .next t) ∨
    (s.turns = [] ∧ s.seq ≠ .idle ∧ t = coreStep s) ∨
    (∃ rest, s.turns = .core :: rest ∧ t = coreStep { s with turns := rest }) ∨
    (∃ rest, s.turns = .host :: rest ∧ hostStep { s with turns := rest } = .next t) ∨
    (∃ rest, s.turns = .reset :: rest ∧ t = resetMachine { s with turns := rest }) ∨
    (∃ a b rest, s.turns = .message a b :: rest ∧ t = platformStore a b { s with turns := rest }) ∨
    (∃ a b rest, s.turns = .store a b :: rest ∧ t = platformIssue a b { s with turns := rest }) ∨
    (∃ n rest, s.turns = .visible n :: rest ∧ t = platformReveal n { s with turns := rest }) := by
  have inj : ∀ {a b : State}, (Host.Outcome.next a : Host.Outcome State Fault Refusal) = .next b → b = a :=
    fun e => by cases e; rfl
  unfold step scheduledStep at h
  split at h
  · rename_i ht
    unfold eagerStep at h
    split at h
    · exact .inl ⟨ht, ‹_›, h⟩
    · exact .inr (.inl ⟨ht, ‹_›, inj h⟩)
  · rename_i u rest ht
    cases u with
    | core => exact .inr (.inr (.inl ⟨rest, ht, inj h⟩))
    | host => exact .inr (.inr (.inr (.inl ⟨rest, ht, h⟩)))
    | reset => exact .inr (.inr (.inr (.inr (.inl ⟨rest, ht, inj h⟩))))
    | message a b => exact .inr (.inr (.inr (.inr (.inr (.inl ⟨a, b, rest, ht, inj h⟩)))))
    | store a b => exact .inr (.inr (.inr (.inr (.inr (.inr (.inl ⟨a, b, rest, ht, inj h⟩))))))
    | visible n => exact .inr (.inr (.inr (.inr (.inr (.inr (.inr ⟨n, rest, ht, inj h⟩))))))

/-- Everything a platform change of message memory can do. -/
theorem platformStore_cases (a : Nat) (b : Option Byte) (s : State) :
    ∃ d, platformStore a b s = { s with msgMem := Memory.set s.cfg.addrWidth a b s.msgMem, msgDisturbed := d } := by
  unfold platformStore
  simp only
  split
  · exact ⟨true, rfl⟩
  · exact ⟨s.msgDisturbed, rfl⟩

/-- Everything the visibility of a store can do: nothing, or a platform change of message memory by the store at that
position, which is pending no more. -/
theorem platformReveal_cases (n : Nat) (s : State) :
    platformReveal n s = s ∨
    (∃ p d, s.pendingStores[n]? = some p ∧ platformReveal n s =
      { s with msgMem := Memory.set s.cfg.addrWidth p.1 p.2 s.msgMem, pendingStores := s.pendingStores.eraseIdx n
               msgDisturbed := d }) := by
  unfold platformReveal
  split
  · exact .inl rfl
  · rename_i p hp
    obtain ⟨d, e⟩ := platformStore_cases p.1 p.2 { s with pendingStores := s.pendingStores.eraseIdx n }
    exact .inr ⟨p, d, hp, e⟩

/-- When a store to the message is not visible yet (R67). -/
theorem staleMessage_iff (s : State) : staleMessage s = true ↔
    ∃ p ∈ s.pendingStores, s.msgAddr.toNat ≤ p.1 ∧ p.1 < s.msgAddr.toNat + s.len.toNat := by
  simp [staleMessage, inMessage]

/-- A command that is no HASH starts with its message duty kept; so does a HASH whose message no pending store touches. -/
theorem startCommand_undisturbed {q : Seq} {s : State} (h : q ≠ .hstart ∨ staleMessage s = false) :
    (startCommand q s).msgDisturbed = false := by
  rcases h with h | h <;> simp [h]

end Sys2Proof.Machine
end

