-- ==== Sys2Proof/Laws/Compression.lean ====
section
/-! SUPPORT. What runs of core steps do: the rounds of a block, a block from its first step to its last, and the reads of
a message piece by piece. -/

namespace Sys2Proof.Machine

/-- The last of `n + 1` core steps, taken apart from the others. -/
theorem coreRun_succ_last (n : Nat) (s : State) : coreRun (n + 1) s = coreStep (coreRun n s) := by
  rw [coreRun_add]; rfl

/-- Rounds 0 to `k - 1` of a block, short of the round that leaves ROUND (R136). -/
theorem coreRun_rounds {s : State} (h : s.seq = .round) (hi : s.i = 0) : ∀ k, k ≤ 63 →
    coreRun k s = { s with w := runRounds s.m s.w k, i := BitVec.ofNat 6 k } := by
  intro k
  induction k with
  | zero => intro _; cases s; simp_all [runRounds]
  | succ k ih =>
    intro hk
    rw [coreRun_succ_last, ih (by omega), coreStep_round (by exact h)]
    unfold stepRound
    rw [if_neg]
    · simp only [runRounds, State.mk.injEq, true_and, and_true]
      apply BitVec.eq_of_toNat_eq; simp
    · intro e; have := congrArg BitVec.toNat e; simp at this; omega

/-- All 64 rounds of a block (R136). -/
theorem coreRun_64_rounds {s : State} (h : s.seq = .round) (hi : s.i = 0) :
    coreRun 64 s = { s with w := runRounds s.m s.w 64, i := 63, seq := .feed } := by
  rw [coreRun_succ_last, coreRun_rounds h hi 63 (by omega), coreStep_round (by exact h)]
  simp [stepRound, runRounds]

/-- The rounds and FEED of a TRANSFORM's block (R136, R137). -/
theorem coreRun_block_xform {s : State} (h : s.seq = .round) (hi : s.i = 0) (hm : s.mode = .xform) (hw : s.w = s.h) :
    coreRun 65 s =
      { s with h := compress s.h s.m, w := runRounds s.m s.h 64, i := 63, busy := false, seq := .idle } := by
  rw [coreRun_succ_last, coreRun_64_rounds h hi, coreStep_feed rfl]
  simp [stepFeed, hm, endCommand, compress, hw]

/-- The rounds and FEED of a HASH's block (R136, R137). -/
theorem coreRun_block_hash {s : State} (h : s.seq = .round) (hi : s.i = 0) (hm : s.mode = .hash) (hw : s.w = s.h) :
    coreRun 65 s = { s with h := compress s.h s.m, w := runRounds s.m s.h 64, i := 63, seq := .next } := by
  rw [coreRun_succ_last, coreRun_64_rounds h hi, coreStep_feed rfl]
  simp [stepFeed, hm, compress, hw]

/-- The core is not IDLE inside a block. -/
theorem coreRun_block_busy {s : State} (h : s.seq = .round) (hi : s.i = 0) :
    ∀ k, k < 65 → (coreRun k s).seq ≠ .idle := by
  intro k hk
  by_cases e : k = 64
  · subst e; rw [coreRun_64_rounds h hi]; simp
  · rw [coreRun_rounds h hi k (by omega)]; simp [h]

/-- A step that ends in `startBlock`, and the block of a HASH it starts. -/
theorem coreRun_66_hash {u v : State} (hc : coreStep u = startBlock v) (hm : v.mode = .hash) :
    coreRun 66 u = { v with h := compress v.h v.m, w := runRounds v.m v.h 64, i := 63, seq := .next } := by
  have := coreRun_block_hash (s := startBlock v) rfl rfl hm rfl
  rw [coreRun_succ 65, hc, this]; simp [startBlock]

/-- A step that ends in `startBlock`, and the block of a TRANSFORM it starts. -/
theorem coreRun_66_xform {u v : State} (hc : coreStep u = startBlock v) (hm : v.mode = .xform) :
    coreRun 66 u =
      { v with h := compress v.h v.m, w := runRounds v.m v.h 64, i := 63, busy := false, seq := .idle } := by
  have := coreRun_block_xform (s := startBlock v) rfl rfl hm rfl
  rw [coreRun_succ 65, hc, this]; simp [startBlock]

/-- The core is not IDLE from a step that starts a block to that block's FEED. -/
theorem coreRun_66_busy {u v : State} (hs : u.seq ≠ .idle) (hc : coreStep u = startBlock v) :
    ∀ k, k < 66 → (coreRun k u).seq ≠ .idle := by
  intro k hk
  cases k with
  | zero => simpa using hs
  | succ k => rw [coreRun_succ, hc]; exact coreRun_block_busy (s := startBlock v) rfl rfl k (by omega)

/-- The host's side stays kept through core steps. -/
theorem hostSideKept_coreRun {s : State} (n : Nat) : ∀ {u : State}, HostSideKept s u → HostSideKept s (coreRun n u) := by
  induction n with
  | zero => intro u h; exact h
  | succ n ih =>
    intro u h
    rw [coreRun_succ]
    apply ih
    simp only [HostSideKept] at h ⊢
    simpa using h

/-- A part of a readable message is readable, and is that part of its bytes. -/
theorem readBytes_slice {s : State} {addr len : Nat} {msg : List Byte} (h : readBytes s addr len = some msg)
    {a n : Nat} (han : a + n ≤ len) : readBytes s (addr + a) n = some ((msg.drop a).take n) := by
  obtain ⟨r, rfl⟩ : ∃ r, len = a + (n + r) := ⟨len - a - n, by omega⟩
  rw [readBytes_append] at h
  cases h1 : readBytes s addr a with
  | none => simp [h1] at h
  | some xs =>
    rw [h1] at h
    simp only [Option.bind_some] at h
    rw [readBytes_append] at h
    cases h2 : readBytes s (addr + a) n with
    | none => simp [h2] at h
    | some ys =>
      cases h3 : readBytes s (addr + a + n) r with
      | none => simp [h2, h3] at h
      | some zs =>
        simp [h2, h3] at h
        have l1 := readBytes_length _ h1
        have l2 := readBytes_length _ h2
        simp [← h, ← l1, ← l2]

/-- Masking an address of the address space leaves it (R27). -/
theorem and_lowmask_eq {width : Nat} {x : BitVec 64} (h : x.toNat < 2 ^ width) : x &&& lowmask width = x := by
  apply BitVec.eq_of_toNat_eq
  have hx := x.isLt
  simp only [lowmask, BitVec.toNat_and, BitVec.toNat_ofNat]
  by_cases hw : width ≤ 64
  · have : 2 ^ width ≤ 2 ^ 64 := Nat.pow_le_pow_right (by omega) hw
    have : 0 < 2 ^ width := by positivity
    rw [Nat.mod_eq_of_lt (by omega), Nat.and_two_pow_sub_one_eq_mod, Nat.mod_eq_of_lt h]
  · have : (2 ^ width - 1) % 2 ^ 64 = 2 ^ 64 - 1 := by
      obtain ⟨d, rfl⟩ : ∃ d, width = 64 + d := ⟨width - 64, by omega⟩
      rw [Nat.pow_add]
      have : 0 < 2 ^ d := by positivity
      obtain ⟨e, he⟩ : ∃ e, 2 ^ d = e + 1 := ⟨2 ^ d - 1, by omega⟩
      rw [he, Nat.mul_add, Nat.mul_one, Nat.add_sub_assoc (by omega), Nat.mul_add_mod]; rfl
    rw [this, Nat.and_two_pow_sub_one_eq_mod, Nat.mod_eq_of_lt hx]

/-- A register's offset names it (R32). -/
@[simp] theorem Reg.ofOffset_offset (r : Reg) : Reg.ofOffset (Reg.offset r) = some r := by
  cases r with
  | state k => revert k; decide
  | block n => revert n; decide
  | _ => decide

end Sys2Proof.Machine
end

