-- ==== Sys2Proof/Laws/PerInstr.lean ====
section
/-! SUPPORT. The family EncodedFormat: each command's word is a legal command word of the format CMD-W. -/

namespace Sys2Proof.Laws.EncodedFormat

/-- `i` is well-formed, and its word has RSV 0 and an assigned OPC, and those fields alone make up the word (R80 to
R82). -/
def Statement (i : Instr) : Prop :=
  Instr.wf i = true ∧ CmdW.wf (CmdW.ofWord (encode i)) = true ∧
  CmdW.toWord (CmdW.ofWord (encode i)) = encode i ∧ instrOfOpc (CmdW.ofWord (encode i)).opc = some i

theorem nop : Statement .nop := by unfold Statement; decide
theorem init : Statement .init := by unfold Statement; decide
theorem transform : Statement .transform := by unfold Statement; decide
theorem hash : Statement .hash := by unfold Statement; decide

end Sys2Proof.Laws.EncodedFormat
end

