-- ==== Sys2Proof/Tests/Slice0.lean ====
section
/-! SUPPORT. The model's own tests and the witnesses of its statements. Expected values of the tests stand in
spec/95_test_vectors.md (the section is named at each group) or are worked out by hand from the rule cited. -/

namespace Sys2Proof.Tests

set_option Elab.async false

open Sys2Proof Sys2Proof.Machine

/-! ## Well-formedness: each check refuses an ill-formed term (R7, R51, R80, R82, R86) -/

theorem test_wf_refuses_reserved_bits : CmdW.wf { rsv := 1, opc := 3 } = false := by decide
theorem test_wf_refuses_unassigned_opc : CmdW.wf { rsv := 0, opc := 4 } = false := by decide
theorem test_wf_accepts_hash_word : CmdW.wf { rsv := 0, opc := 3 } = true := by decide
theorem test_wf_refuses_addr_width_0 : Config.wf { addrWidth := 0, base := 0, latency := none } = false := by decide
theorem test_wf_refuses_addr_width_65 : Config.wf { addrWidth := 65, base := 0, latency := none } = false := by decide
theorem test_wf_refuses_unaligned_base : Config.wf { addrWidth := 32, base := 64, latency := none } = false := by decide
theorem test_wf_accepts_addr_width_64 : Config.wf { addrWidth := 64, base := 128, latency := none } = true := by decide
theorem test_wf_refuses_missing_label : HostOp.programWf [.bnz 0 1 7, .halt] = false := by decide
theorem test_wf_refuses_label_twice : HostOp.programWf [.label 7, .label 7] = false := by decide
theorem test_wf_refuses_byte_write : HostOp.programWf [.busWr 0 8 1] = false := by decide
theorem test_wf_refuses_unaligned_read : HostOp.programWf [.busRd 2 32 0] = false := by decide
theorem test_wf_accepts_wait : HostOp.programWf (pseudoWait 1 0 ++ [.halt]) = true := by decide

/-! ## Decoding: words written out bit by bit, RSV (28 bits) and then OPC (4 bits) (R80, R81; 95_test_vectors.md 5.1) -/

theorem test_decode_nop : decode 0b0000000000000000000000000000_0000 = .ok .nop := by decide
theorem test_decode_init : decode 0b0000000000000000000000000000_0001 = .ok .init := by decide
theorem test_decode_transform : decode 0b0000000000000000000000000000_0010 = .ok .transform := by decide
theorem test_decode_hash : decode 0b0000000000000000000000000000_0011 = .ok .hash := by decide
theorem test_decode_opc_4 : decode 0b0000000000000000000000000000_0100 = .error (.illegalOpcode 4) := by decide
theorem test_decode_rsv_low : decode 0b0000000000000000000000000001_0000 = .error (.reservedBits 1) := by decide
theorem test_decode_rsv_high : decode 0x80000003 = .error (.reservedBits 0x8000000) := by decide
theorem test_decode_bytes_hash : decodeBytes [0x03, 0x00, 0x00, 0x00, 0xAA] = .ok (.hash, [0xAA]) := by decide
theorem test_decode_bytes_big_endian : decodeBytes [0, 0, 0, 3] = .error (.reservedBits 0x300000) := by decide
theorem test_decode_bytes_short : decodeBytes [0x03, 0x00, 0x00] = .error .truncated := by decide
theorem test_encode_words :
    encode .nop = 0x00000000 ∧ encode .init = 0x00000001 ∧ encode .transform = 0x00000002 ∧
    encode .hash = 0x00000003 := by decide
theorem test_table_word_hash : decodeTableWord 32 3 = some .hash := by decide
theorem test_table_word_above_nbits : decodeTableWord 8 0x103 = some .hash := by decide
theorem test_table_word_illegal : decodeTableWord 32 0x13 = none := by decide

/-! ## Round logic (95_test_vectors.md 2.1 to 2.4) and compression (3.1), the length field (1.4) -/

theorem test_mix_row_6 :
    mixF 0xFFFF0000 0xFF00FF00 0xF0F0F0F0 = 0xFF00F0F0 ∧ mixG 0xFFFF0000 0xFF00FF00 0xF0F0F0F0 = 0xFFF00F00 ∧
    mixH 0xFFFF0000 0xFF00FF00 0xF0F0F0F0 = 0xF00F0FF0 ∧ mixI 0xFFFF0000 0xFF00FF00 0xF0F0F0F0 = 0x00FFF00F := by
  decide
theorem test_rotl : rotl 0x12345678 23 = 0x3C091A2B ∧ rotl 1 21 = 0x00200000 ∧ rotl 0xD76AA477 7 = 0xB5523BEB := by
  decide
theorem test_add32_wraps : add32 0xFFFFFFFF 1 = 0 ∧ add32 0xFFFFFFFF 0xFFFFFFFF = 0xFFFFFFFE := by decide
theorem test_schedule_16 : gIndex 16 = 1 ∧ sAmount 16 = 5 ∧ kConst 16 = 0xF61E2562 := by decide
theorem test_schedule_31 : gIndex 31 = 12 ∧ sAmount 31 = 20 ∧ kConst 31 = 0x8D2A4C8A := by decide
theorem test_schedule_47 : gIndex 47 = 2 ∧ sAmount 47 = 23 ∧ kConst 47 = 0xC4AC5665 := by decide
theorem test_schedule_63 : gIndex 63 = 9 ∧ sAmount 63 = 21 ∧ kConst 63 = 0xEB86D391 := by decide

/-- A block of zero words. -/
def zeroBlock : Block := Vector.replicate 16 0

/-- Section 2.4. -/
theorem test_round_0 : roundStep 0 iv (zeroBlock.set 0 0x80) =
    { a := 0x10325476, b := 0xA5202774, c := 0xEFCDAB89, d := 0x98BADCFE } := by decide
/-- Section 3.2, the row of round 63 from the row of round 62. -/
theorem test_round_63 :
    roundStep 63 { a := 0x30130182, b := 0xFF4EA3EB, c := 0x6E10A476, d := 0x7246FAD3 } (zeroBlock.set 0 0x80) =
      { a := 0x7246FAD3, b := 0x14E45506, c := 0xFF4EA3EB, d := 0x6E10A476 } := by decide
/-- Section 3.1, first row. -/
theorem test_compress_zeros : compress { a := 0, b := 0, c := 0, d := 0 } zeroBlock =
    { a := 0xF7CD1C97, b := 0xA5483681, c := 0x2B68D832, d := 0xF90CA639 } := by decide +kernel
/-- Section 1.2, V1. -/
theorem test_md5_empty : md5 [] = { a := 0xD98C1DD4, b := 0x04B2008F, c := 0x980980E9, d := 0x7E42F8EC } := by
  decide +kernel
/-- Section 1.2, V3. -/
theorem test_md5_abc : md5 [0x61, 0x62, 0x63] =
    { a := 0x98500190, b := 0xB04FD23C, c := 0x7D3F96D6, d := 0x727FE128 } := by decide +kernel
/-- Section 3.1, word assembly. -/
theorem test_word_assembly : (words [0x01, 0x02, 0x03, 0x04]).get 0 = 0x04030201 := by decide
/-- Section 1.4. -/
theorem test_length_field : lengthField (2 ^ 29) = [0, 0, 0, 0, 1, 0, 0, 0] := by decide
/-- Section 4.2: the counts of the boundary lengths. -/
theorem test_block_count : blockCount 55 = 1 ∧ blockCount 56 = 2 ∧ blockCount 63 = 2 ∧ blockCount 64 = 2 := by decide
/-- Section 1.2, the byte form of V3. -/
theorem test_digest_bytes :
    (digestBytes { a := 0x98500190, b := 0xB04FD23C, c := 0x7D3F96D6, d := 0x727FE128 }).take 5 =
      [0x90, 0x01, 0x50, 0x98, 0x3C] := by decide

/-! ## States -/

/-- The state after reset with its hidden registers at 0, so that it can be evaluated. -/
def idleState : State :=
  { State.reset with w := { a := 0, b := 0, c := 0, d := 0 }, i := 0, mode := .xform, phase := .data, mbase := 0
                     mlen := 0, off := 0 }

/-- `idleState` with a command running whose next step is `q`. -/
def running (q : Seq) : State := { idleState with busy := true, seq := q }

/-- The 64 bytes of 0x61 at 0x2000 of program P5 (95_test_vectors.md section 6). -/
def memP5 : List Host.Cell := (List.range 64).map (fun n => (0x2000 + n, 0x61))

/-- `idleState` with that memory and a message of `len` bytes at 0x2000. -/
def withMessage (len : BitVec 64) : State := { idleState with msgMem := memP5, msgAddr := 0x2000, len := len }

/-- A state with such a message and the stores `ps` not visible to the core's reads yet. -/
def stale (len : BitVec 64) (ps : List (Nat × Option Byte)) : State := { withMessage len with pendingStores := ps }

/-- A HASH of that message at its NEXT step, its first `off` bytes done. -/
def atNext (len : BitVec 64) (off : BitVec 65) (p : Phase) : State :=
  { withMessage len with busy := true, seq := .next, mode := .hash, phase := p, mbase := 0x2000, mlen := len, off := off }

/-- What `f` says of the next state, false where there is none. -/
def nextHas (o : Host.Outcome State Fault Refusal) (f : State → Bool) : Bool :=
  match o with
  | .next t => f t
  | .fault _ => false
  | .refused _ => false

/-! ## One step of each command, as the first after reset (R153; 95_test_vectors.md sections 5.2, 5.4, 6) -/

theorem test_step_nop : nextHas (step (idleState.withFetchWord 32 0))
    (fun t => t.busy && decide (t.seq = .nop1) && decide (statusWord t = 1)) = true := by decide
theorem test_step_init : nextHas (step (idleState.withFetchWord 32 1))
    (fun t => t.busy && decide (t.seq = .init1)) = true := by decide
theorem test_step_transform : nextHas (step (idleState.withFetchWord 32 2))
    (fun t => t.busy && decide (t.seq = .xstart)) = true := by decide
theorem test_step_hash : nextHas (step (idleState.withFetchWord 32 3))
    (fun t => t.busy && decide (t.seq = .hstart)) = true := by decide
/-- P5: an illegal word leaves STATUS 2. -/
theorem test_step_illegal : nextHas (step (idleState.withFetchWord 32 0x10000003))
    (fun t => !t.busy && decide (t.seq = .idle) && decide (statusWord t = 2)) = true := by decide
/-- P5: MSG_ADDR 0xFFFFFFF0 and LEN 0x20 are out of range, STATUS 4. -/
theorem test_step_hash_range :
    nextHas (step (State.withFetchWord { idleState with msgAddr := 0xFFFFFFF0, len := 0x20 } 32 3))
      (fun t => !t.busy && decide (statusWord t = 4)) = true := by decide
/-- 5.4: a message that ends at the top of the address space is in range. -/
theorem test_step_hash_top :
    nextHas (step (State.withFetchWord { idleState with msgAddr := 0xFFFFFFFF, len := 1 } 32 3)) (fun t => t.busy) =
      true := by decide
/-- P6: a write while busy is dropped, and STATUS reads 0x11. -/
theorem test_step_busy_write : nextHas (step ((running .round).withFetchWord 32 3))
    (fun t => decide (t.seq = .round) && decide (statusWord t = 0x11)) = true := by decide

/-! ## Core steps -/

/-- P5: the second NEXT of the 70-byte message reads 0x2040, which fails: STATUS 6. -/
theorem test_next_bus : decide (statusWord (coreStep (atNext 70 64 .data)) = 6) &&
    decide ((coreStep (atNext 70 64 .data)).seq = .idle) = true := by decide
/-- Section 4.2: the first final block of 56 bytes of 0x61 has the marker in M[14] and no length field. -/
theorem test_next_56 : (coreStep (atNext 56 0 .data)).m.get 14 = 0x80 ∧ (coreStep (atNext 56 0 .data)).m.get 15 = 0 ∧
    (coreStep (atNext 56 0 .data)).phase = .extra := by decide
/-- Section 4.2: the second final block of 56 bytes. -/
theorem test_next_56_extra : (coreStep (atNext 56 56 .extra)).m.get 14 = 0x1C0 ∧
    (coreStep (atNext 56 56 .extra)).m.get 0 = 0 := by decide
/-- Section 4.2: the one final block of 55 bytes. -/
theorem test_next_55 : (coreStep (atNext 55 0 .data)).m.get 13 = 0x80616161 ∧
    (coreStep (atNext 55 0 .data)).m.get 14 = 0x1B8 ∧ (coreStep (atNext 55 0 .data)).phase = .last := by decide
/-- R137 with the last rows of section 3.2: the feed-forward of the empty message. -/
theorem test_feed :
    (coreStep { running .feed with w := { a := 0x7246FAD3, b := 0x14E45506, c := 0xFF4EA3EB, d := 0x6E10A476 } }).h =
      { a := 0xD98C1DD4, b := 0x04B2008F, c := 0x980980E9, d := 0x7E42F8EC } := by decide
/-- R172. -/
theorem test_init1 : (coreStep { running .init1 with h := { a := 1, b := 2, c := 3, d := 4 } }).h = iv := by
  decide

/-! ## The register window (95_test_vectors.md 5.3) -/

/-- With ADDR_WIDTH 32, MSG_ADDR_HI ignores every bit written. -/
theorem test_msg_addr_hi_32 : nextHas (busWrite 0x0C 0xFFFFFFFF idleState) (fun t => t.msgAddr == 0) = true := by
  decide
/-- With ADDR_WIDTH 20, MSG_ADDR_LO keeps 20 bits. -/
theorem test_msg_addr_lo_20 :
    nextHas (busWrite 0x08 0xFFFFFFFF { idleState with cfg := { Config.default with addrWidth := 20 } })
      (fun t => t.msgAddr == 0x000FFFFF) = true := by decide
theorem test_len_hi : nextHas (busWrite 0x14 0x12345678 { idleState with len := 5 })
    (fun t => t.len == 0x1234567800000005) = true := by decide
theorem test_reserved_write : nextHas (busWrite 0x3C 0xFFFFFFFF idleState) (fun t => t == idleState) = true := by
  decide
theorem test_window_last_slot : Reg.ofOffset 0x7C = some (.block 15) := by decide
theorem test_byte_write_refused : rawWrite 0 8 0x03 idleState = .refused (.unsupportedAccess true 0 8) := rfl
theorem test_unaligned_write_refused : rawWrite 0x22 32 0 idleState = .refused (.unsupportedAccess true 0x22 32) := rfl

/-! ## Host lines -/

/-- R86: a taken branch goes to the label's line. -/
theorem test_bnz_taken : nextHas (hostOpStep (.bnz 0 2 7)
    { idleState with hostProg := [.bnz 0 2 7, .halt, .label 7], hostVars := [(0, 6)] }) (fun t => t.hostPc == 2) =
      true := by decide
theorem test_bnz_missing_label :
    hostOpStep (.bnz 0 2 7) { idleState with hostVars := [(0, 6)] } = .refused (.unknownLabel 7) := rfl

/-! ## Memory -/

theorem test_platform_store : memRead (platformStore 0x2001 (some 0x62) (withMessage 3)) 0x2001 = some 0x62 := by
  decide
theorem test_platform_erase : memRead (platformStore 0x2001 none (withMessage 3)) 0x2001 = none := by decide
/-- R67: a HASH started while a store to its message is not visible breaks the message duty. -/
theorem test_hash_of_stale_message :
    nextHas (exec .hash (stale 3 [(0x2002, some 0x62)])) (fun t => t.busy && t.msgDisturbed) = true := by decide
/-- R67: a store next to the message does not. -/
theorem test_hash_beside_pending_store :
    nextHas (exec .hash (stale 3 [(0x2003, some 0x62)])) (fun t => t.busy && !t.msgDisturbed) = true := by decide
/-- A store is read only once it is visible. -/
theorem test_store_becomes_visible :
    memRead (platformIssue 0x2001 (some 0x62) (withMessage 3)) 0x2001 = some 0x61 ∧
    memRead (platformReveal 0 (platformIssue 0x2001 (some 0x62) (withMessage 3))) 0x2001 = some 0x62 := by decide
theorem test_no_address_above_width : memRead (platformStore (2 ^ 32) (some 1) idleState) (2 ^ 32) = none := by
  decide

/-! ## Witnesses: for each statement of Certificates/Slice0/Obligations.lean that has hypotheses, a state and operands
that meet them together, clause by clause where it has several -/

/-- A HASH of 3 readable bytes at the point `q` inside its transform. -/
def inHashBlock (q : Seq) : State :=
  { atNext 3 3 .last with seq := q }

theorem idleState_inv : StateInv idleState where
  config := by decide
  busyIffRunning := by decide
  errLegal := by decide
  errWhileBusy := by decide
  msgAddr := by decide
  memory := by decide
  vars := by decide
  hashRange := by decide
  nextMode := by decide
  latches := by intro h; simp [hashLatched, idleState, State.reset] at h

theorem atNext_inv : StateInv (atNext 64 0 .data) where
  config := by decide
  busyIffRunning := by decide
  errLegal := by decide
  errWhileBusy := by decide
  msgAddr := by decide
  memory := by decide
  vars := by decide
  hashRange := by decide
  nextMode := by decide
  latches := fun _ => ⟨by decide, by decide, by decide, by decide, by decide, by decide⟩

theorem witness_DecodeFollowsTheFields :
    (0x00000013 : Word).extractLsb 31 4 ≠ 0 ∧ (0x0000000F : Word).extractLsb 31 4 = 0 ∧
    4 ≤ ((0x0000000F : Word).extractLsb 3 0).toNat ∧ 4 ≤ ((0x00000004 : Word).extractLsb 3 0).toNat ∧
    (0x00000000 : Word).extractLsb 3 0 = 0 ∧ (0x00000003 : Word).extractLsb 3 0 = 3 ∧
    (0x00000001 : Word).extractLsb 3 0 = 1 ∧ (0x00000002 : Word).extractLsb 3 0 = 2 := by decide
theorem witness_WindowLayoutIsOneToOne : (0x18 : BitVec 7).toNat % 4 = 0 ∧ (0x3C : BitVec 7).toNat % 4 = 0 := by decide
theorem witness_TurnNamesTheAgent :
    (running .round).turns = [] ∧ (running .round).seq ≠ .idle ∧ idleState.turns = [] ∧ idleState.seq = .idle ∧
    State.turns { idleState with turns := [.core] } = [.core] ∧ State.turns { idleState with turns := [.host] } = [.host] ∧
    State.turns { idleState with turns := [.reset] } = [.reset] ∧
    State.turns { idleState with turns := [.message 0 none] } = [.message 0 none] ∧
    State.turns { idleState with turns := [.store 0 none] } = [.store 0 none] ∧
    State.turns { idleState with turns := [.visible 0] } = [.visible 0] := by decide
theorem witness_StepRunsTheDecodedCommand :
    (∃ s : State, s.turns = .host :: [] ∧ s.hostProg[s.hostPc]? = some (.wr .cmd 3) ∧ decode 3 = .ok .hash) ∧
    (∃ s : State, s.turns = [] ∧ s.seq = .idle ∧ s.hostProg[s.hostPc]? = some (.wr .cmd 2) ∧
      decode 2 = .ok .transform) ∧
    decode (BitVec.ofNat 32 1) = .ok .init :=
  ⟨⟨{ idleState with turns := [.host], hostProg := [.wr .cmd 3] }, by decide⟩,
    ⟨{ idleState with hostProg := [.wr .cmd 2] }, by decide⟩, by decide⟩
theorem witness_CmdWriteTakesTheCommand :
    (running .round).busy = true ∧ idleState.busy = false ∧ (∀ i, decode 4 ≠ .ok i) ∧
    2 ^ idleState.cfg.addrWidth <
      (State.msgAddr { idleState with msgAddr := 0xFFFFFFFF, len := 2 }).toNat + (2 : BitVec 64).toNat ∧
    (State.msgAddr { idleState with msgAddr := 0xFFFFFFFF, len := 1 }).toNat + (1 : BitVec 64).toNat ≤
      2 ^ idleState.cfg.addrWidth ∧
    decode 0 = .ok .nop ∧ decode 1 = .ok .init ∧ decode 2 = .ok .transform ∧ decode 3 = .ok .hash := by
  refine ⟨by decide, by decide, ?_, by decide, by decide, by decide, by decide, by decide, by decide⟩
  intro i; cases i <;> decide
theorem witness_IllegalWordOnlySetsErr :
    idleState.busy = false ∧ idleState.seq = .idle ∧ 4 ≤ ((4 : Word).extractLsb 3 0).toNat ∧
    (0x80000003 : Word).extractLsb 31 4 ≠ 0 ∧
    takeCommand 4 idleState = .next { idleState with bwerr := false, err := 1 } := ⟨by decide, by decide, by decide, by decide, rfl⟩
theorem witness_HashOutOfRangeOnlySetsErr :
    ∃ s : State, s.busy = false ∧ s.seq = .idle ∧ 2 ^ s.cfg.addrWidth < s.msgAddr.toNat + s.len.toNat ∧
      exec .hash s = .next { s with bwerr := false, err := 2 } :=
  ⟨{ idleState with msgAddr := 0xFFFFFFFF, len := 2 }, by decide, by decide, by decide, rfl⟩
theorem witness_TakingWritesOnlyStatusAndSequencer : ∃ t, exec .init idleState = .next t := ⟨_, rfl⟩
theorem witness_BusyWriteIsDropped : (running .feed).busy = true := by decide
/-- For NopClearsStatus, InitLoadsTheInitialValue, TransformCompressesTheBlock and CommandsTakeTheirStepCount. -/
theorem witness_idle_commands :
    idleState.busy = false ∧ (∃ t, exec .nop idleState = .next t) ∧ (∃ t, exec .init idleState = .next t) ∧
    (∃ t, exec .transform idleState = .next t) ∧
    (∃ t, exec .hash (withMessage 64) = .next t) ∧ (withMessage 64).busy = false ∧
    (withMessage 64).msgAddr.toNat + (withMessage 64).len.toNat ≤ 2 ^ (withMessage 64).cfg.addrWidth ∧
    readBytes (withMessage 64) (withMessage 64).msgAddr.toNat (withMessage 64).len.toNat ≠ none :=
  ⟨by decide, ⟨_, rfl⟩, ⟨_, rfl⟩, ⟨_, rfl⟩, ⟨_, rfl⟩, by decide, by decide, by decide⟩
theorem witness_SixtySixStepsCompress : (running .xstart).seq = .xstart := by decide
theorem witness_HashComputesTheDigest :
    (withMessage 2).busy = false ∧
    (withMessage 2).msgAddr.toNat + (withMessage 2).len.toNat ≤ 2 ^ (withMessage 2).cfg.addrWidth ∧
    readBytes (withMessage 2) (withMessage 2).msgAddr.toNat (withMessage 2).len.toNat = some [0x61, 0x61] ∧
    (∀ p ∈ (withMessage 2).pendingStores,
      p.1 < (withMessage 2).msgAddr.toNat ∨ (withMessage 2).msgAddr.toNat + (withMessage 2).len.toNat ≤ p.1) := by decide
/-- Stores not visible yet on either side of the message, next to it. -/
theorem witness_HashComputesTheDigest_pending :
    ∃ s : State, s.busy = false ∧ s.msgAddr.toNat + s.len.toNat ≤ 2 ^ s.cfg.addrWidth ∧
      readBytes s s.msgAddr.toNat s.len.toNat = some [0x61, 0x61] ∧ s.pendingStores ≠ [] ∧
      (∀ p ∈ s.pendingStores, p.1 < s.msgAddr.toNat ∨ s.msgAddr.toNat + s.len.toNat ≤ p.1) :=
  ⟨stale 2 [(0x1FFF, some 0), (0x2002, none)], by decide⟩
/-- A store not visible yet to the last byte of the message. -/
theorem witness_HashOfStaleMessageFreesTheResults :
    ∃ s : State, s.busy = false ∧ s.msgAddr.toNat + s.len.toNat ≤ 2 ^ s.cfg.addrWidth ∧
      readBytes s s.msgAddr.toNat s.len.toNat ≠ none ∧
      (∃ p ∈ s.pendingStores, s.msgAddr.toNat ≤ p.1 ∧ p.1 < s.msgAddr.toNat + s.len.toNat) :=
  ⟨stale 2 [(0x2001, some 0x62)], by decide⟩
/-- An empty message needs no readable byte. -/
theorem witness_HashComputesTheDigest_empty :
    ∃ s : State, s.busy = false ∧ s.msgAddr.toNat + s.len.toNat ≤ 2 ^ s.cfg.addrWidth ∧ s.msgMem = [] ∧
      readBytes s s.msgAddr.toNat s.len.toNat = some [] := ⟨{ idleState with msgAddr := 0xFFFFFFFF }, by decide⟩
theorem witness_UnreadableMessageEndsWithBus :
    (withMessage 65).busy = false ∧
    (withMessage 65).msgAddr.toNat + (withMessage 65).len.toNat ≤ 2 ^ (withMessage 65).cfg.addrWidth ∧
    readBytes (withMessage 65) (withMessage 65).msgAddr.toNat (withMessage 65).len.toNat = none := by decide
/-- For EveryRunningCommandEnds, EveryStepKeepsTheMachineSound and ReservedErrCodeFaults: an idle and a running state. -/
theorem witness_sound_states : StateInv idleState ∧ StateInv (atNext 64 0 .data) ∧ (atNext 64 0 .data).seq ≠ .idle ∧
    (∃ t, step (atNext 64 0 .data) = .next t) ∧ 4 ≤ (State.err { idleState with err := 4 }).toNat :=
  ⟨idleState_inv, atNext_inv, by decide, ⟨_, rfl⟩, by decide⟩
theorem witness_EagerRunIsTheCoreRun :
    (running .xstart).turns = [] ∧ ∀ k, k < 2 → (coreRun k (running .xstart)).seq ≠ .idle := by decide
theorem witness_IdleCoreTakesNoStep : idleState.seq = .idle := by decide
theorem witness_OneStepCommandsEnd : (running .nop1).seq = .nop1 ∧ (running .init1).seq = .init1 := by decide
theorem witness_TransformStepsWriteTheirRegisters :
    (running .xstart).seq = .xstart ∧ (State.i { running .round with i := 63 } = 63) ∧ (running .round).seq = .round ∧
    (running .round).i ≠ 63 ∧ (running .feed).seq = .feed ∧ (running .feed).mode = .xform ∧
    (inHashBlock .feed).seq = .feed ∧ (inHashBlock .feed).mode = .hash := by decide
theorem witness_HstartLatchesTheMessage : (running .hstart).seq = .hstart ∧ (running .hstart).cfg.wf = true := by decide
/-- The five cases at 64, 55, 56 and 63 bytes left, and the two last phases. -/
theorem witness_NextStepIteratesTheBlocks :
    (atNext 64 0 .data).seq = .next ∧ (atNext 64 0 .data).off.toNat ≤ (atNext 64 0 .data).mlen.toNat ∧
    (atNext 55 55 .last).off.toNat ≤ (atNext 55 55 .last).mlen.toNat ∧ (atNext 64 0 .data).phase = .data ∧
    (readBytes (atNext 64 0 .data) 0x2000 64).isSome = true ∧
    (atNext 55 0 .data).phase = .data ∧ (readBytes (atNext 55 0 .data) 0x2000 55).isSome = true ∧
    (atNext 56 0 .data).phase = .data ∧ (readBytes (atNext 56 0 .data) 0x2000 56).isSome = true ∧
    (atNext 63 0 .data).phase = .data ∧ (readBytes (atNext 63 0 .data) 0x2000 63).isSome = true ∧
    (atNext 56 56 .extra).phase = .extra ∧ (atNext 55 55 .last).phase = .last ∧
    (atNext 55 55 .last).msgDisturbed = false := by decide
/-- For FailedReadEndsTheCommand and OnlyFailedReadSetsErr. -/
theorem witness_failed_read :
    (atNext 70 64 .data).seq = .next ∧ (atNext 70 64 .data).phase = .data ∧
    readBytes (atNext 70 64 .data) (0x2000 + 64) (min 64 (70 - 64)) = none ∧
    (coreStep (atNext 70 64 .data)).err ≠ (atNext 70 64 .data).err := by decide
theorem witness_OnlyThreeStepsWriteTheState :
    (running .round).seq ≠ .init1 ∧ (running .round).seq ≠ .hstart ∧ (running .round).seq ≠ .feed ∧
    (running .round).msgDisturbed = false := by decide
theorem witness_OnlyNextWritesTheBlock : (running .feed).seq ≠ .next := by decide
/-- The message is one byte, and another byte of memory differs. -/
theorem witness_CoreReadsOnlyTheMessage :
    ∃ (s : State) (mem : List Host.Cell), StateInv s ∧ mem ≠ s.msgMem ∧
      ∀ a, s.msgAddr.toNat ≤ a → a < s.msgAddr.toNat + s.len.toNat →
        memRead { s with msgMem := mem } a = memRead s a :=
  ⟨idleState, [(5, 1)], idleState_inv, by decide, fun a _ h => absurd h (by
    have : idleState.msgAddr.toNat + idleState.len.toNat = 0 := by decide
    omega)⟩
theorem witness_MessageMemoryIsNeverWritten :
    (∃ t, exec .hash idleState = .next t) ∧ (∃ t, step (running .round) = .next t) ∧
    (∀ a b rest, (running .round).turns ≠ .message a b :: rest) ∧
    (∀ n rest, (running .round).turns ≠ .visible n :: rest) :=
  ⟨⟨_, rfl⟩, ⟨_, rfl⟩, (by intro a b rest h; cases h), (by intro n rest h; cases h)⟩
/-- BWERR set by a dropped write, and cleared by a command taken and by the reset input. -/
theorem witness_BwerrIsSticky :
    (∃ t, step ((running .round).withFetchWord 32 3) = .next t ∧ t.bwerr = true ∧ (running .round).bwerr = false) ∧
    (∃ t, step (State.withFetchWord { idleState with bwerr := true } 32 1) = .next t ∧ t.bwerr = false) ∧
    (∃ t, step { running .round with bwerr := true, turns := [.reset] } = .next t ∧ t.bwerr = false) ∧
    (∃ u, HostWrites ((running .round).withFetchWord 32 3) 0x00 3 u) ∧
    (∃ u, HostWrites { idleState with hostProg := [.busWr 0x7C 32 5] } 0x7C 5 u) :=
  ⟨⟨_, rfl, rfl, rfl⟩, ⟨_, rfl, rfl⟩, ⟨_, rfl, rfl⟩, ⟨_, _, _, rfl, rfl, rfl, rfl⟩, ⟨_, _, _, rfl, rfl, rfl, rfl⟩⟩
theorem witness_MessageReadAfterPlatformStore :
    Memory.wf (withMessage 3).cfg.addrWidth (withMessage 3).msgMem = true ∧
    (stale 3 [(0x2000, some 1), (0x2001, none)]).pendingStores[1]? = some (0x2001, none) ∧
    Memory.wf (stale 3 [(0x2000, some 1)]).cfg.addrWidth (stale 3 [(0x2000, some 1)]).msgMem = true ∧
    (withMessage 3).pendingStores[0]? = none := by decide
theorem witness_BrokenMessageDutyFreesTheResults :
    (hashRunning (inHashBlock .round) = true ∧ (inHashBlock .round).msgAddr.toNat ≤ 0x2002 ∧
      0x2002 < (inHashBlock .round).msgAddr.toNat + (inHashBlock .round).len.toNat ∧
      memRead (platformStore 0x2002 (some 0x62) (inHashBlock .round)) 0x2002 ≠ memRead (inHashBlock .round) 0x2002) ∧
    ((stale 3 [(0x2002, none)]).busy = false ∧
      (stale 3 [(0x2002, none)]).msgAddr.toNat + (stale 3 [(0x2002, none)]).len.toNat ≤
        2 ^ (stale 3 [(0x2002, none)]).cfg.addrWidth ∧
      (∃ p ∈ (stale 3 [(0x2002, none)]).pendingStores, 0x2000 ≤ p.1 ∧ p.1 < 0x2000 + 3)) ∧
    (∃ t, exec .hash (stale 3 [(0x2002, none)]) = .next t) ∧
    (∃ s : State, s.seq = .next ∧ s.phase = .last ∧ s.msgDisturbed = true) :=
  ⟨by decide, by decide, ⟨_, rfl⟩, { inHashBlock .next with msgDisturbed := true }, by decide⟩
theorem witness_IdleReadReturnsTheRegister : idleState.busy = false ∧ idleState.err.toNat ≤ 3 := by decide
theorem witness_BusyReadIsADraw :
    (running .round).busy = true ∧ (0x20 : BitVec 7).toNat % 4 = 0 ∧ (0x2C : BitVec 7).toNat ≤ 0x2C ∧
    0x40 ≤ (0x7C : BitVec 7).toNat ∧ (0x3C : BitVec 7).toNat < 0x40 ∧ (running .round).err.toNat ≤ 3 ∧
    (∃ x, busRead 0x10 { running .round with busy := false } = .next (x, { running .round with busy := false })) :=
  ⟨by decide, by decide, by decide, by decide, by decide, by decide, _, rfl⟩
theorem witness_IdleWriteSetsTheRegister : idleState.busy = false := by decide
theorem witness_WrittenRegisterReadsBack :
    idleState.busy = false ∧ (Reg.msgAddrHi ≠ .cmd ∧ Reg.msgAddrHi ≠ .status) ∧
    (∃ t, busWrite (Reg.offset .msgAddrHi) 0xFFFFFFFF idleState = .next t) ∧
    (∃ t, busWrite (Reg.offset (.block 15)) 7 idleState = .next t) ∧
    (∃ x, busRead (Reg.offset .lenLo) idleState = .next (x, idleState)) :=
  ⟨by decide, by decide, ⟨_, rfl⟩, ⟨_, rfl⟩, _, rfl⟩
/-- A byte access, a 64-bit access and an unaligned one, at the window's ends. -/
theorem witness_UnsupportedAccessIsRefused :
    idleState.cfg.wf = true ∧ idleState.cfg.base ≤ 0 ∧ 127 < idleState.cfg.base + 128 ∧ (8 : Nat) ≠ 32 ∧
    (127 - idleState.cfg.base) % 4 ≠ 0 := by decide
theorem witness_SupportedAccessNamesItsOffset : (0x7C : BitVec 7).toNat % 4 = 0 := by decide
theorem witness_HostLinesDoTheirAccess :
    (∃ x s', busRead (Reg.offset .status) { idleState with hostPc := 1 } = .next (x, s')) ∧
    hostVar { idleState with hostVars := [(0, 2)] } 0 &&& 1 = 0 ∧
    hostVar { idleState with hostVars := [(0, 1)] } 0 &&& 1 ≠ 0 ∧ findLabel 7 [.halt, .label 7] = some 1 :=
  ⟨⟨_, _, rfl⟩, by decide, by decide, by decide⟩
theorem witness_SetMsgSetsTheOperands :
    ∃ s : State, s.turns = [] ∧ s.seq = .idle ∧ s.busy = false ∧
      s.hostProg = [.halt] ++ pseudoSetMsg 0xFFFFFFFF 3 ++ [] ∧ s.hostPc = [HostOp.halt].length ∧
      (0xFFFFFFFF : BitVec 64).toNat < 2 ^ s.cfg.addrWidth :=
  ⟨{ idleState with hostProg := [.halt] ++ pseudoSetMsg 0xFFFFFFFF 3, hostPc := 1 }, by decide⟩
theorem witness_WaitFallsThroughWhenIdle :
    ∃ s : State, s.turns = [] ∧ s.seq = .idle ∧ s.busy = false ∧ s.err.toNat ≤ 3 ∧
      s.hostProg = [] ++ pseudoWait 1 0 ++ [.halt] ∧ s.hostPc = ([] : List HostOp).length :=
  ⟨{ idleState with hostProg := pseudoWait 1 0 ++ [.halt] }, by decide⟩
theorem witness_MixingFunctionsSelect : (31 : Nat) < 32 := by decide
theorem witness_RotationMovesEveryBit : (1 : Nat) ≤ 31 ∧ (31 : Nat) ≤ 31 ∧ (31 : Nat) < 32 := by decide
theorem witness_RoundStepFollowsTheEquation : (zeroBlock.set 0 0x80).get 0 = 0x00000080 := by decide
theorem witness_BlockBytesAndWordsAgree : (List.replicate 64 (0 : Byte)).length = 64 ∧ 63 < 64 := by decide
theorem witness_LastBlockHoldsTheBitLength : 56 ≤ (List.replicate 56 (0 : Byte)).length % 64 := by decide

end Sys2Proof.Tests
end

section
/-! PROOFS. Rotation moves bit `k` to bit `(k + n) mod 32` (spec/00_scope.md R9, spec/40_round_logic.md R105). -/

namespace Sys2Proof.Machine

/-- The shift-and-or form of R9 is the library's rotation. -/
theorem rotl_eq_rotateLeft (x : Word) {n : Nat} (hn : n < 32) : rotl x n = x.rotateLeft n := by
  rw [BitVec.rotateLeft_eq_rotateLeftAux_of_lt hn]
  rfl

theorem getLsbD_rotl_add_mod (x : Word) {n k : Nat} (hn : n < 32) (hk : k < 32) :
    (rotl x n).getLsbD ((k + n) % 32) = x.getLsbD k := by
  rw [rotl_eq_rotateLeft x hn, BitVec.getLsbD_rotateLeft_of_le hn]
  by_cases hwrap : k + n < 32
  · have hpos : (k + n) % 32 = k + n := Nat.mod_eq_of_lt hwrap
    simp [hpos, hwrap]
  · have hpos : (k + n) % 32 = k + n - 32 := by omega
    have hlow : k + n - 32 < n := by omega
    have hsrc : 32 - n + (k + n - 32) = k := by omega
    simp [hpos, hlow, hsrc]

/-- Every bit of the result is a bit of the all-ones operand: bit `i` comes from bit `(i + (32 - n)) mod 32`. -/
theorem rotl_allOnes {n : Nat} (hn : n < 32) : rotl (BitVec.allOnes 32) n = BitVec.allOnes 32 := by
  apply BitVec.eq_of_getLsbD_eq
  intro i hi
  have hsrc : (i + (32 - n)) % 32 < 32 := Nat.mod_lt _ (by decide)
  have hdst : ((i + (32 - n)) % 32 + n) % 32 = i := by omega
  have hbit := getLsbD_rotl_add_mod (BitVec.allOnes 32) hn hsrc
  rw [hdst] at hbit
  rw [hbit, BitVec.getLsbD_allOnes, BitVec.getLsbD_allOnes, decide_eq_true hsrc, decide_eq_true hi]

/-- Settles O51: the two general clauses are the rotation lemmas, the examples of R105 are computed. -/
theorem rotationMovesEveryBit : Obligations.RotationMovesEveryBit := by
  unfold Obligations.RotationMovesEveryBit
  refine ⟨?bits, ?ones, by decide, by decide⟩
  case bits =>
    intro x n k _ hn hk
    exact getLsbD_rotl_add_mod x (Nat.lt_succ_of_le hn) hk
  case ones =>
    intro n _ hn
    exact rotl_allOnes (Nat.lt_succ_of_le hn)

end Sys2Proof.Machine
end

section
/-! PROOFS. The host's writes to MSG_ADDR keep its bits at and above ADDR_WIDTH at 0 (spec/10_state.md R27,
spec/20_memory.md R55). -/

namespace Sys2Proof.Machine

/-- A 64-bit value is below `2^width` exactly if its bits at and above `width` are 0. -/
theorem toNat_lt_two_pow_iff (x : BitVec 64) (width : Nat) :
    x.toNat < 2 ^ width ↔ ∀ k, width ≤ k → x.getLsbD k = false := by
  constructor
  · intro h k hk
    exact Nat.testBit_eq_false_of_lt (lt_of_lt_of_le h (Nat.pow_le_pow_right (by decide) hk))
  · intro h
    exact Nat.lt_pow_two_of_testBit _ h

theorem getLsbD_lowmask (width k : Nat) : (lowmask width).getLsbD k = (decide (k < 64) && decide (k < width)) := by
  simp [lowmask, BitVec.getLsbD_ofNat, Nat.testBit_two_pow_sub_one]

theorem getLsbD_setLo (x : BitVec 64) (v : Word) (k : Nat) :
    (setLo x v).getLsbD k = if k < 32 then v.getLsbD k else x.getLsbD k := by
  rw [setLo, hiHalf, BitVec.getLsbD_append]
  split
  · rfl
  · rw [BitVec.getLsbD_extractLsb', show 32 + (k - 32) = k by omega]
    by_cases hk : k < 64
    · simp [show k - 32 < 32 by omega]
    · simp [BitVec.getLsbD_of_ge x k (by omega)]

theorem getLsbD_setHi (x : BitVec 64) (v : Word) (k : Nat) :
    (setHi x v).getLsbD k = if k < 32 then x.getLsbD k else v.getLsbD (k - 32) := by
  rw [setHi, loHalf, BitVec.getLsbD_append]
  split
  · simp [*]
  · rfl

/-- A write of the low half, masked as R55 says, keeps a MSG_ADDR in the address space. -/
theorem setLo_masked_lt {x : BitVec 64} {width : Nat} (v : Word) (hx : x.toNat < 2 ^ width) :
    (setLo x (v &&& loHalf (lowmask width))).toNat < 2 ^ width := by
  rw [toNat_lt_two_pow_iff] at hx ⊢
  intro k hk
  rw [getLsbD_setLo]
  split
  · simp [loHalf, getLsbD_lowmask, hk]
  · exact hx k hk

/-- A write of the high half, masked as R55 says, keeps a MSG_ADDR in the address space. -/
theorem setHi_masked_lt {x : BitVec 64} {width : Nat} (v : Word) (hx : x.toNat < 2 ^ width) :
    (setHi x (v &&& hiHalf (lowmask width))).toNat < 2 ^ width := by
  rw [toNat_lt_two_pow_iff] at hx ⊢
  intro k hk
  rw [getLsbD_setHi]
  split
  · exact hx k hk
  · have hbit : ¬ 32 + (k - 32) < width := by omega
    simp [hiHalf, getLsbD_lowmask, hbit]

end Sys2Proof.Machine
end

section
/-! PROOFS. The invariant of the machine holds at reset, and every step of every agent keeps it (spec/10_state.md R27,
R31, R35, R37, R42). Each step leaves the machine idle, running, or with the invariant's fields as they were; one rule
per kind says what is then left to show. -/

namespace Sys2Proof.Machine

/-! ## Rules for the invariant -/

/-- `t` differs from `s` in no field of a command in progress: neither in BUSY, ERR, the sequencer's registers and
latches, nor in the operands and parameters they were made from. -/
def CommandKept (s t : State) : Prop :=
  t = { s with h := t.h, w := t.w, m := t.m, bwerr := t.bwerr, i := t.i, msgMem := t.msgMem
               pendingStores := t.pendingStores, hostProg := t.hostProg, hostPc := t.hostPc, hostVars := t.hostVars
               turns := t.turns, draws := t.draws, msgDisturbed := t.msgDisturbed }

theorem hostSideKept_coreStep (s : State) : HostSideKept s (coreStep s) := by
  simp [HostSideKept]

theorem LatchesOk.of_kept {s t : State} (h : LatchesOk s) (haddr : t.msgAddr = s.msgAddr) (hlen : t.len = s.len)
    (hcfg : t.cfg = s.cfg) (hkept : LatchesKept s t) : LatchesOk t := by
  obtain ⟨hphase, hbase, hmlen, hoff⟩ := hkept
  constructor
  · rw [hbase, haddr, h.base]
  · rw [hmlen, hlen, h.length]
  · rw [hbase, hmlen, hcfg]; exact h.range
  · rw [hoff, hmlen]; exact h.offset
  · rw [hphase, hoff]; exact h.whole
  · rw [hphase, hoff, hmlen]; exact h.done

theorem StateInv.seq_idle {s : State} (hi : StateInv s) (hb : s.busy = false) : s.seq = .idle := by
  have h := hi.busyIffRunning
  simp only [hb] at h
  by_contra hs
  exact absurd (h.mpr hs) (by decide)

/-- A step that leaves the command in progress alone keeps the invariant if it leaves message memory and the host
variables in canonical form. -/
theorem StateInv.of_commandKept {s t : State} (hi : StateInv s) (hkept : CommandKept s t)
    (hmem : Memory.wf s.cfg.addrWidth t.msgMem = true) (hvars : Cells.risingFrom none t.hostVars = true) :
    StateInv t := by
  rw [hkept]
  exact {
    config := hi.config
    busyIffRunning := hi.busyIffRunning
    errLegal := hi.errLegal
    errWhileBusy := hi.errWhileBusy
    msgAddr := hi.msgAddr
    memory := hmem
    vars := hvars
    hashRange := hi.hashRange
    nextMode := hi.nextMode
    latches := fun hl => (hi.latches hl).of_kept rfl rfl rfl ⟨rfl, rfl, rfl, rfl⟩ }

/-- With no command in progress, only the host's side of the invariant and a legal ERR are left. -/
theorem StateInv.of_idle {t : State} (hb : t.busy = false) (hs : t.seq = .idle) (hcfg : t.cfg.wf = true)
    (herr : t.err.toNat ≤ 3) (haddr : t.msgAddr.toNat < 2 ^ t.cfg.addrWidth)
    (hmem : Memory.wf t.cfg.addrWidth t.msgMem = true) (hvars : Cells.risingFrom none t.hostVars = true) :
    StateInv t where
  config := hcfg
  busyIffRunning := by simp [hb, hs]
  errLegal := herr
  errWhileBusy := by simp [hb]
  msgAddr := haddr
  memory := hmem
  vars := hvars
  hashRange := by simp [hs]
  nextMode := by simp [hs]
  latches := by simp [hashLatched, hs]

/-- A core step that ends its command, or a command that is not started. -/
theorem StateInv.of_ended {s t : State} (hi : StateInv s) (hkept : HostSideKept s t) (hb : t.busy = false)
    (hs : t.seq = .idle) (herr : t.err.toNat ≤ 3) : StateInv t := by
  obtain ⟨haddr, -, hmem, -, hcfg, -, -, hvars, -⟩ := hkept
  exact .of_idle hb hs (hcfg ▸ hi.config) herr (by rw [haddr, hcfg]; exact hi.msgAddr)
    (by rw [hmem, hcfg]; exact hi.memory) (hvars ▸ hi.vars)

/-- A step after which a command is in progress owes the clauses about where its sequencer stands. -/
theorem StateInv.of_running {s t : State} (hi : StateInv s) (hkept : HostSideKept s t) (hb : t.busy = true)
    (hs : t.seq ≠ .idle) (herr : t.err = errNone)
    (hrange : t.seq = .hstart → s.msgAddr.toNat + s.len.toNat ≤ 2 ^ s.cfg.addrWidth)
    (hmode : t.seq = .next → t.mode = .hash) (hlatches : hashLatched t → LatchesOk t) : StateInv t := by
  obtain ⟨haddr, hlen, hmem, -, hcfg, -, -, hvars, -⟩ := hkept
  exact {
    config := hcfg ▸ hi.config
    busyIffRunning := by simp [hb, hs]
    errLegal := by simp [herr, errNone]
    errWhileBusy := fun _ => herr
    msgAddr := by rw [haddr, hcfg]; exact hi.msgAddr
    memory := by rw [hmem, hcfg]; exact hi.memory
    vars := hvars ▸ hi.vars
    hashRange := by rw [haddr, hlen, hcfg]; exact hrange
    nextMode := hmode
    latches := hlatches }

/-- Starting a block owes the driver latches, if it is a block of a HASH. -/
theorem StateInv.of_startBlock {s v : State} (hi : StateInv s) (hkept : HostSideKept s (startBlock v))
    (hb : v.busy = true) (herr : v.err = errNone) (hlatches : v.mode = .hash → LatchesOk (startBlock v)) :
    StateInv (startBlock v) :=
  hi.of_running hkept hb (by simp) herr (by simp) (by simp) (by simpa [hashLatched] using hlatches)

/-! ## Reset -/

/-- Settles O33: after reset no command is in progress. -/
theorem resetIsSound : Obligations.ResetIsSound :=
  .of_idle rfl rfl (by decide) (by decide) (by decide) reset_memory_wf rfl

theorem stateInv_resetMachine {s : State} (hi : StateInv s) : StateInv (resetMachine s) :=
  .of_idle rfl rfl hi.config (by simp [errNone]) (by simp) hi.memory hi.vars

/-! ## The core -/

/-- HSTART latches the registers, whose message R153 has checked (R173). -/
theorem latchesOk_stepHstart {s : State} (hi : StateInv s) (hs : s.seq = .hstart) : LatchesOk (stepHstart s) := by
  have hbase : s.msgAddr &&& lowmask s.cfg.addrWidth = s.msgAddr := and_lowmask_eq hi.msgAddr
  constructor
  · simpa using hbase
  · simp
  · simpa [hbase] using hi.hashRange hs
  · simp
  · simp
  · simp

/-- NEXT on a full block: 64 more bytes are done, no more than the message has (R174). -/
theorem latchesOk_full_block {s : State} (hl : LatchesOk s) (hp : s.phase = .data)
    (hrem : 64 ≤ s.mlen.toNat - s.off.toNat) (m : Block) :
    LatchesOk (startBlock { s with m := m, off := s.off + 64 }) := by
  have hoff : (s.off + 64).toNat = s.off.toNat + 64 := by
    have := s.mlen.isLt
    rw [BitVec.toNat_add]
    simp only [BitVec.reduceToNat]
    omega
  have hwhole := hl.whole hp
  constructor
  · exact hl.base
  · exact hl.length
  · exact hl.range
  · simp only [startBlock_off, startBlock_mlen, hoff]; omega
  · simp only [startBlock_off, hoff]; omega
  · simp [hp]

/-- Once the data is used up, the offset is the message's length (R174). -/
theorem latchesOk_message_done {s : State} (hl : LatchesOk s) {p : Phase} (hp : p ≠ .data) (m : Block) :
    LatchesOk (startBlock { s with m := m, phase := p, off := s.mlen.setWidth 65 }) where
  base := hl.base
  length := hl.length
  range := hl.range
  offset := by simpa using Nat.mod_le _ _
  whole h := absurd h hp
  done _ := rfl

theorem stateInv_stepHstart {s : State} (hi : StateInv s) (hs : s.seq = .hstart) (hb : s.busy = true) :
    StateInv (stepHstart s) := by
  have hkept := hostSideKept_coreStep s
  rw [coreStep_hstart hs] at hkept
  exact hi.of_running hkept hb (by simp) (hi.errWhileBusy hb) (by simp) (by simp)
    (fun _ => latchesOk_stepHstart hi hs)

theorem stateInv_stepXstart {s : State} (hi : StateInv s) (hs : s.seq = .xstart) (hb : s.busy = true) :
    StateInv (stepXstart s) := by
  have hkept := hostSideKept_coreStep s
  rw [coreStep_xstart hs] at hkept
  exact hi.of_startBlock hkept hb (hi.errWhileBusy hb) (by simp)

/-- A ROUND step keeps the latches, and the next step is ROUND or FEED in the same mode (R136). -/
theorem stateInv_stepRound {s : State} (hi : StateInv s) (hs : s.seq = .round) (hb : s.busy = true) :
    StateInv (stepRound s) := by
  have hkept := hostSideKept_coreStep s
  rw [coreStep_round hs] at hkept
  have herr := hi.errWhileBusy hb
  have hlatches (hm : s.mode = .hash) : LatchesOk s := hi.latches (.inr ⟨.inl hs, hm⟩)
  rcases stepRound_cases s with ⟨-, e⟩ | ⟨-, e⟩ <;> rw [e] at hkept ⊢
  · exact hi.of_running hkept hb (by simp) herr (by simp) (by simp) fun h => by
      have hm : s.mode = .hash := by simpa [hashLatched] using h
      exact (hlatches hm).of_kept rfl rfl rfl ⟨rfl, rfl, rfl, rfl⟩
  · exact hi.of_running hkept hb (by simp [hs]) herr (by simp [hs]) (by simp [hs]) fun h => by
      have hm : s.mode = .hash := by simpa [hashLatched, hs] using h
      exact (hlatches hm).of_kept rfl rfl rfl ⟨rfl, rfl, rfl, rfl⟩

/-- FEED ends a TRANSFORM; in a HASH it goes on to NEXT with the latches kept (R137). -/
theorem stateInv_stepFeed {s : State} (hi : StateInv s) (hs : s.seq = .feed) (hb : s.busy = true) :
    StateInv (stepFeed s) := by
  have hkept := hostSideKept_coreStep s
  rw [coreStep_feed hs] at hkept
  rcases stepFeed_cases s with ⟨-, e⟩ | ⟨hm, e⟩ <;> rw [e] at hkept ⊢
  · exact hi.of_ended hkept rfl rfl hi.errLegal
  · have hlatches : LatchesOk s := hi.latches (.inr ⟨.inr hs, hm⟩)
    exact hi.of_running hkept hb (by simp) (hi.errWhileBusy hb) (by simp) (fun _ => hm)
      (fun _ => hlatches.of_kept rfl rfl rfl ⟨rfl, rfl, rfl, rfl⟩)

/-- NEXT ends the HASH, by a failed read or when all blocks are done, or starts a block of it with the latches in the
message (R174). -/
theorem stateInv_stepNext {s : State} (hi : StateInv s) (hs : s.seq = .next) (hb : s.busy = true) :
    StateInv (stepNext s) := by
  have hkept := hostSideKept_coreStep s
  rw [coreStep_next hs] at hkept
  have hl : LatchesOk s := hi.latches (.inl hs)
  have herr := hi.errWhileBusy hb
  rcases stepNext_cases s with ⟨-, e⟩ | ⟨hp, hrem, _, -, e⟩ | ⟨-, -, _, -, e⟩ | ⟨-, -, -, _, -, e⟩ | ⟨hp, e⟩ |
    ⟨-, -, e⟩ | ⟨-, -, e⟩ <;> rw [e] at hkept ⊢
  · exact hi.of_ended hkept rfl rfl (by simp [errBus])
  · exact hi.of_startBlock hkept hb herr (fun _ => latchesOk_full_block hl hp hrem _)
  · exact hi.of_startBlock hkept hb herr (fun _ => latchesOk_message_done hl (by decide) _)
  · exact hi.of_startBlock hkept hb herr (fun _ => latchesOk_message_done hl (by decide) _)
  · have hoff : s.off = s.mlen.setWidth 65 := hl.done (by simp [hp])
    exact hi.of_startBlock hkept hb herr (fun _ => ⟨hl.base, hl.length, hl.range, hl.offset, by simp, fun _ => hoff⟩)
  · exact hi.of_ended hkept rfl rfl hi.errLegal
  · exact hi.of_ended hkept rfl rfl hi.errLegal

theorem stateInv_coreStep {s : State} (hi : StateInv s) : StateInv (coreStep s) := by
  have hkept := hostSideKept_coreStep s
  have hbusy (h : s.seq ≠ .idle) : s.busy = true := hi.busyIffRunning.mpr h
  cases hs : s.seq with
  | idle => rwa [coreStep_idle hs]
  | nop1 => rw [coreStep_nop1 hs] at hkept ⊢; exact hi.of_ended hkept rfl rfl hi.errLegal
  | init1 => rw [coreStep_init1 hs] at hkept ⊢; exact hi.of_ended hkept rfl rfl hi.errLegal
  | xstart => rw [coreStep_xstart hs]; exact stateInv_stepXstart hi hs (hbusy (by simp [hs]))
  | hstart => rw [coreStep_hstart hs]; exact stateInv_stepHstart hi hs (hbusy (by simp [hs]))
  | next => rw [coreStep_next hs]; exact stateInv_stepNext hi hs (hbusy (by simp [hs]))
  | round => rw [coreStep_round hs]; exact stateInv_stepRound hi hs (hbusy (by simp [hs]))
  | feed => rw [coreStep_feed hs]; exact stateInv_stepFeed hi hs (hbusy (by simp [hs]))

/-! ## The host -/

theorem stateInv_dropWrite {s : State} (hi : StateInv s) : StateInv (dropWrite s) :=
  hi.of_commandKept rfl hi.memory hi.vars

theorem stateInv_rejectCommand {s : State} (hi : StateInv s) (hb : s.busy = false) {code : BitVec 3}
    (hcode : code.toNat ≤ 3) : StateInv (rejectCommand code s) :=
  hi.of_ended ⟨rfl, rfl, rfl, rfl, rfl, rfl, rfl, rfl, rfl⟩ hb (hi.seq_idle hb) hcode

/-- Taking a command drops it, starts it at its first core step, or rejects it (R153, R196). -/
theorem stateInv_exec {i : Instr} {s t : State} (hi : StateInv s) (h : exec i s = .next t) : StateInv t := by
  rcases exec_cases h with ⟨-, rfl⟩ | ⟨-, q, hidle, hrange, hnext, hround, hfeed, rfl⟩ | ⟨hb, -, -, rfl⟩
  · exact stateInv_dropWrite hi
  · refine hi.of_running ⟨rfl, rfl, rfl, rfl, rfl, rfl, rfl, rfl, rfl⟩ rfl hidle rfl ?_ (fun hq => absurd hq hnext) ?_
    · intro hq
      simpa [messageInRange] using hrange hq
    · simp [hashLatched, hnext, hround, hfeed]
  · exact stateInv_rejectCommand hi hb (by decide)

/-- A host write while BUSY = 0 finds no command whose latches it could break (R55, R56). -/
theorem stateInv_busWrite {off : BitVec 7} {v : Word} {s t : State} (hi : StateInv s) (h : busWrite off v s = .next t) :
    StateInv t := by
  rcases busWrite_cases h with ⟨-, rfl⟩ | ⟨-, rfl⟩ | ⟨hb, rfl⟩ | ⟨-, i, hex⟩ | ⟨hb, rfl⟩ | ⟨hb, rfl⟩ | ⟨hb, _, rfl⟩ |
    ⟨-, _, rfl⟩ | ⟨-, _, rfl⟩
  · exact stateInv_dropWrite hi
  · exact hi
  · exact stateInv_rejectCommand hi hb (by decide)
  · exact stateInv_exec hi hex
  · exact .of_idle hb (hi.seq_idle hb) hi.config hi.errLegal (setLo_masked_lt v hi.msgAddr) hi.memory hi.vars
  · exact .of_idle hb (hi.seq_idle hb) hi.config hi.errLegal (setHi_masked_lt v hi.msgAddr) hi.memory hi.vars
  · exact .of_idle hb (hi.seq_idle hb) hi.config hi.errLegal hi.msgAddr hi.memory hi.vars
  · exact hi.of_commandKept rfl hi.memory hi.vars
  · exact hi.of_commandKept rfl hi.memory hi.vars

theorem stateInv_advanceHost {s : State} (hi : StateInv s) : StateInv (advanceHost s) :=
  hi.of_commandKept rfl hi.memory hi.vars

theorem stateInv_hostStep {s t : State} (hi : StateInv s) (h : hostStep s = .next t) : StateInv t := by
  rcases hostStep_cases h with ⟨_, _, _, hvars, rfl⟩ | ⟨_, _, _, -, -, hw⟩
  · exact hi.of_commandKept rfl hi.memory (hvars hi.vars)
  · exact stateInv_busWrite (stateInv_advanceHost hi) hw

/-! ## The platform paths and the schedule -/

theorem stateInv_platformStore {s : State} (hi : StateInv s) (a : Nat) (b : Option Byte) :
    StateInv (platformStore a b s) := by
  obtain ⟨_, e⟩ := platformStore_cases a b s
  rw [e]
  exact hi.of_commandKept rfl (Memory.wf_set _ _ _ hi.memory) hi.vars

theorem stateInv_platformIssue {s : State} (hi : StateInv s) (a : Nat) (b : Option Byte) :
    StateInv (platformIssue a b s) :=
  hi.of_commandKept rfl hi.memory hi.vars

theorem stateInv_platformReveal {s : State} (hi : StateInv s) (n : Nat) : StateInv (platformReveal n s) := by
  rcases platformReveal_cases n s with e | ⟨_, _, -, e⟩ <;> rw [e]
  · exact hi
  · exact hi.of_commandKept rfl (Memory.wf_set _ _ _ hi.memory) hi.vars

theorem stateInv_set_turns {s : State} (hi : StateInv s) (rest : List Turn) : StateInv { s with turns := rest } :=
  hi.of_commandKept rfl hi.memory hi.vars

/-- Settles O34: the agent whose turn it is keeps the invariant. -/
theorem everyStepKeepsTheMachineSound : Obligations.EveryStepKeepsTheMachineSound := by
  intro s t hi h
  rcases step_cases h with ⟨-, -, hh⟩ | ⟨-, -, rfl⟩ | ⟨rest, -, rfl⟩ | ⟨rest, -, hh⟩ | ⟨rest, -, rfl⟩ |
    ⟨a, b, rest, -, rfl⟩ | ⟨a, b, rest, -, rfl⟩ | ⟨n, rest, -, rfl⟩
  · exact stateInv_hostStep hi hh
  · exact stateInv_coreStep hi
  · exact stateInv_coreStep (stateInv_set_turns hi rest)
  · exact stateInv_hostStep (stateInv_set_turns hi rest) hh
  · exact stateInv_resetMachine (stateInv_set_turns hi rest)
  · exact stateInv_platformStore (stateInv_set_turns hi rest) a b
  · exact stateInv_platformIssue (stateInv_set_turns hi rest) a b
  · exact stateInv_platformReveal (stateInv_set_turns hi rest) n

end Sys2Proof.Machine
end

section
/-! PROOFS. Which core steps write `H` and which write `M` (spec/10_state.md R22, R25; spec/41_compression.md R134). -/

namespace Sys2Proof.Machine

/-- NEXT leaves `H` to the other steps, unless a read fails or the message duty was broken (R22, R174, R193). -/
theorem stepNext_h {s : State} (hduty : s.msgDisturbed = false) :
    (stepNext s).h = s.h ∨ stepNext s = raiseBusError s := by
  rcases stepNext_cases s with ⟨-, e⟩ | ⟨-, -, _, -, e⟩ | ⟨-, -, _, -, e⟩ | ⟨-, -, -, _, -, e⟩ | ⟨-, e⟩ | ⟨-, -, e⟩ |
    ⟨-, hbroken, -⟩
  case inl => exact .inr e
  case inr.inr.inr.inr.inr.inr => simp [hduty] at hbroken
  all_goals exact .inl (by simp [e])

theorem stepRound_h (s : State) : (stepRound s).h = s.h := by
  rcases stepRound_cases s with ⟨-, e⟩ | ⟨-, e⟩ <;> rw [e]

theorem stepRound_m (s : State) : (stepRound s).m = s.m := by
  rcases stepRound_cases s with ⟨-, e⟩ | ⟨-, e⟩ <;> rw [e]

theorem stepFeed_m (s : State) : (stepFeed s).m = s.m := by
  rcases stepFeed_cases s with ⟨-, e⟩ | ⟨-, e⟩ <;> simp [e]

/-- Settles O29: of the steps that may not write `H`, NEXT alone can, by its failed read. -/
theorem onlyThreeStepsWriteTheState : Obligations.OnlyThreeStepsWriteTheState := by
  intro s hinit hstart hfeed hduty
  cases hs : s.seq with
  | idle => exact .inl (by rw [coreStep_idle hs])
  | nop1 => exact .inl (by simp [coreStep_nop1 hs])
  | init1 => exact absurd hs hinit
  | xstart => exact .inl (by simp [coreStep_xstart hs])
  | hstart => exact absurd hs hstart
  | next =>
    rw [coreStep_next hs]
    rcases stepNext_h hduty with hh | e
    · exact .inl hh
    · exact .inr ⟨rfl, by rw [e]; rfl, by rw [e]; rfl⟩
  | round => exact .inl (by rw [coreStep_round hs, stepRound_h])
  | feed => exact absurd hs hfeed

/-- Settles O30: each of the other steps writes other registers. -/
theorem onlyNextWritesTheBlock : Obligations.OnlyNextWritesTheBlock := by
  intro s hnext
  cases hs : s.seq with
  | idle => rw [coreStep_idle hs]
  | nop1 => simp [coreStep_nop1 hs]
  | init1 => simp [coreStep_init1 hs]
  | xstart => simp [coreStep_xstart hs]
  | hstart => simp [coreStep_hstart hs]
  | next => exact absurd hs hnext
  | round => rw [coreStep_round hs, stepRound_m]
  | feed => rw [coreStep_feed hs, stepFeed_m]

end Sys2Proof.Machine
end

section
/-! PROOFS. What the platform paths change for a reader of message memory (spec/10_state.md R28, spec/20_memory.md R58,
R67). -/

namespace Sys2Proof.Machine

/-- Reading after a platform change, in a canonical memory. -/
theorem Memory.lookup_set {width : Nat} {mem : List Host.Cell} (hmem : Memory.wf width mem = true) (a x : Nat)
    (b : Option Byte) :
    Cells.lookup x (Memory.set width a b mem) = if x = a ∧ a < 2 ^ width then b else Cells.lookup x mem := by
  have hrising : Cells.risingFrom none mem = true := by
    rw [Memory.wf, Bool.and_eq_true] at hmem
    exact hmem.1
  unfold Memory.set
  split
  next ha =>
    cases b with
    | some byte => simp [Cells.lookup_insert, ha]
    | none => simp [Cells.lookup_erase a x hrising, ha]
  next ha => simp [ha]

/-- A read sees message memory alone, so it sees a platform change and not the mark it may leave. -/
theorem memRead_of_set {s t : State} {a : Nat} {b : Option Byte} (hwf : Memory.wf s.cfg.addrWidth s.msgMem = true)
    (hmem : t.msgMem = Memory.set s.cfg.addrWidth a b s.msgMem) (hcfg : t.cfg = s.cfg) (x : Nat) :
    memRead t x = if x = a ∧ a < 2 ^ s.cfg.addrWidth then b else memRead s x := by
  simp only [memRead, hmem, hcfg, Memory.lookup_set hwf]
  by_cases hx : x < 2 ^ s.cfg.addrWidth
  · simp [hx]
  · have hnot : ¬ (x = a ∧ a < 2 ^ s.cfg.addrWidth) := by rintro ⟨rfl, ha⟩; exact hx ha
    simp [hx, hnot]

/-- The visibility of a store is the platform change that the store names, and the store is pending no more. -/
theorem platformReveal_of_pending {s : State} {n a : Nat} {b : Option Byte}
    (hn : s.pendingStores[n]? = some (a, b)) :
    platformReveal n s = platformStore a b { s with pendingStores := s.pendingStores.eraseIdx n } := by
  simp [platformReveal, hn]

@[simp] theorem platformStore_msgMem (a : Nat) (b : Option Byte) (s : State) :
    (platformStore a b s).msgMem = Memory.set s.cfg.addrWidth a b s.msgMem := by
  obtain ⟨_, e⟩ := platformStore_cases a b s
  rw [e]

@[simp] theorem platformStore_cfg (a : Nat) (b : Option Byte) (s : State) : (platformStore a b s).cfg = s.cfg := by
  obtain ⟨_, e⟩ := platformStore_cases a b s
  rw [e]

@[simp] theorem platformStore_pendingStores (a : Nat) (b : Option Byte) (s : State) :
    (platformStore a b s).pendingStores = s.pendingStores := by
  obtain ⟨_, e⟩ := platformStore_cases a b s
  rw [e]

/-- Settles O37: a change at once and a store becoming visible set the one address; a store not visible yet only waits. -/
theorem messageReadAfterPlatformStore : Obligations.MessageReadAfterPlatformStore := by
  refine ⟨?atOnce, ?pending, ?revealed, ?none⟩
  case atOnce =>
    intro s a b x hwf
    exact memRead_of_set hwf (by simp) (by simp) x
  case pending =>
    intro s a b x
    exact ⟨memRead_congr (by simp) (by simp) x, by simp⟩
  case revealed =>
    intro s n a b x hwf hn
    rw [platformReveal_of_pending hn]
    exact ⟨memRead_of_set hwf (by simp) (by simp) x, by simp⟩
  case none =>
    intro s n hn
    simp [platformReveal, hn]

end Sys2Proof.Machine
end

section
/-! PROOFS. The layout of the state: a block's bytes and words, the window's offsets, the STATUS word and the values
after reset (spec/10_state.md R24, R31, R32, R42). -/

namespace Sys2Proof.Machine

/-! ## Bytes and words -/

/-- Concatenation puts the left part above the right one. -/
theorem toNat_append_eq_add {m n : Nat} (x : BitVec m) (y : BitVec n) : (x ++ y).toNat = x.toNat * 2 ^ n + y.toNat := by
  rw [BitVec.toNat_append, ← Nat.shiftLeft_add_eq_or_of_lt y.isLt, Nat.shiftLeft_eq]

theorem le32_toNat (b0 b1 b2 b3 : Byte) : (le32 b0 b1 b2 b3).toNat =
    ((b3.toNat * 2 ^ 8 + b2.toNat) * 2 ^ 8 + b1.toNat) * 2 ^ 8 + b0.toNat := by
  unfold le32
  rw [toNat_append_eq_add, toNat_append_eq_add, toNat_append_eq_add]

theorem byteOf_toNat (v : Word) (k : Nat) : (byteOf v k).toNat = v.toNat / 2 ^ (8 * k) % 2 ^ 8 := by
  rw [byteOf, BitVec.extractLsb'_toNat, Nat.shiftRight_eq_div_pow]

/-- Byte `k` of the word made of four bytes is the `k`-th of them (R12, R52). -/
theorem byteOf_le32 (b : Nat → Byte) {k : Nat} (hk : k < 4) : byteOf (le32 (b 0) (b 1) (b 2) (b 3)) k = b k := by
  apply BitVec.eq_of_toNat_eq
  rw [byteOf_toNat, le32_toNat]
  have hb0 := (b 0).isLt
  have hb1 := (b 1).isLt
  have hb2 := (b 2).isLt
  have hb3 := (b 3).isLt
  have hcases : k = 0 ∨ k = 1 ∨ k = 2 ∨ k = 3 := by omega
  rcases hcases with rfl | rfl | rfl | rfl <;> omega

/-- A word is made of its four bytes (R12, R52). -/
theorem le32_byteOf (v : Word) : le32 (byteOf v 0) (byteOf v 1) (byteOf v 2) (byteOf v 3) = v := by
  simp only [le32, byteOf]
  iterate 3 rw [BitVec.extractLsb'_append_extractLsb'_eq_extractLsb' (by decide)]
  exact BitVec.extractLsb'_eq_self

theorem words_get (blk : List Byte) (n : Fin 16) :
    (words blk).get n = le32 (blk.getD (4 * n.val) 0) (blk.getD (4 * n.val + 1) 0) (blk.getD (4 * n.val + 2) 0)
      (blk.getD (4 * n.val + 3) 0) := by
  simp [words, Vector.get_eq_getElem]

/-- Byte `k` of word `n` of a block (R24). -/
theorem blockByte_eq_byteOf (m : Block) (n : Fin 16) {k : Nat} (hk : k < 4) :
    blockByte m (4 * n.val + k) = byteOf (m.get n) k := by
  have hword : Fin.ofNat 16 ((4 * n.val + k) / 4) = n := by
    apply Fin.ext
    simp only [Fin.val_ofNat]
    omega
  rw [blockByte, hword, show (4 * n.val + k) % 4 = k by omega]

/-- Byte `j` of the words of a block is byte `j` of the block; bytes that are not there count as 0 (R24). -/
theorem blockByte_words (blk : List Byte) {j : Nat} (hj : j < 64) : blockByte (words blk) j = blk.getD j 0 := by
  have hk : j % 4 < 4 := Nat.mod_lt _ (by decide)
  calc blockByte (words blk) j
      = blockByte (words blk) (4 * (j / 4) + j % 4) := by rw [Nat.div_add_mod]
    _ = byteOf ((words blk).get ⟨j / 4, by omega⟩) (j % 4) := blockByte_eq_byteOf _ ⟨j / 4, by omega⟩ hk
    _ = blk.getD (4 * (j / 4) + j % 4) 0 := by
        rw [words_get]; exact byteOf_le32 (fun k => blk.getD (4 * (j / 4) + k) 0) hk
    _ = blk.getD j 0 := by rw [Nat.div_add_mod]

/-- Word `n` of the words of a block's bytes is word `n` of the block (R24). -/
theorem words_blockBytes_get (m : Block) (n : Fin 16) :
    (words ((List.range 64).map (blockByte m))).get n = m.get n := by
  have hbyte (k : Nat) (hk : k < 4) :
      ((List.range 64).map (blockByte m)).getD (4 * n.val + k) 0 = byteOf (m.get n) k := by
    have hin : 4 * n.val + k < 64 := by omega
    simp [List.getD_eq_getElem?_getD, hin, blockByte_eq_byteOf m n hk]
  have hbyte0 := hbyte 0 (by decide)
  rw [Nat.add_zero] at hbyte0
  rw [words_get, hbyte0, hbyte 1 (by decide), hbyte 2 (by decide), hbyte 3 (by decide), le32_byteOf]

/-- Settles O55: word by word, the bytes of a word are the four it was made of. -/
theorem blockBytesAndWordsAgree : Obligations.BlockBytesAndWordsAgree := by
  refine ⟨?bytes, ?words⟩
  case bytes =>
    intro blk j hlen hj
    rw [blockByte_words blk hj]
    simp [hlen, hj]
  case words =>
    intro m
    apply Vector.ext
    intro n hn
    exact words_blockBytes_get m ⟨n, hn⟩

/-! ## The window -/

theorem Reg.offset_aligned (r : Reg) : (Reg.offset r).toNat % 4 = 0 := by
  cases r with
  | state k => revert k; decide
  | block n => revert n; decide
  | _ => decide

/-- Settles O4: each register's offset is aligned and names it; which offsets name none is checked over the window's 128
bytes. -/
theorem windowLayoutIsOneToOne : Obligations.WindowLayoutIsOneToOne := by
  refine ⟨fun r => ⟨Reg.ofOffset_offset r, Reg.offset_aligned r⟩, ?reserved⟩
  case reserved => decide

/-! ## STATUS -/

theorem bit_toNat (b : Bool) : (bit b).toNat = if b then 1 else 0 := by
  cases b <;> rfl

/-- Settles O39: the word is the sum of its fields, each at its place. -/
theorem statusWordHasItsFields : Obligations.StatusWordHasItsFields := by
  intro s
  apply BitVec.eq_of_toNat_eq
  have herr := s.err.isLt
  have hzero : (0 : BitVec 27).toNat = 0 := rfl
  simp only [statusWord, toNat_append_eq_add, bit_toNat, hzero, BitVec.toNat_ofNat]
  split <;> split <;> omega

/-! ## Reset -/

/-- Settles O5: the record `State.reset` has each value of R42, IV written out. -/
theorem resetHoldsTheSpecValues : Obligations.ResetHoldsTheSpecValues := by
  refine ⟨rfl, ?_, rfl, rfl, rfl, rfl, rfl, rfl⟩
  intro n
  simp [State.reset, Vector.get_eq_getElem]

end Sys2Proof.Machine
end

section
/-! PROOFS. The core and the host's side of the machine: a core step commutes with a change of BWERR and of the message
memory that its own reads do not see, so a dropped write leaves the running command alone, and memory outside the message
is nothing to it (spec/20_memory.md R56, R59, R60). No agent but the platform writes message memory (R62). -/

namespace Sys2Proof.Machine

/-! ## Core steps with another memory and another BWERR -/

/-- `s` with another message memory and another BWERR, which no core step writes. -/
def withMemory (mem : List Host.Cell) (bw : Bool) (s : State) : State := { s with msgMem := mem, bwerr := bw }

/-- What a NEXT step in phase DATA reads (R174, R175): a full block, or what is left of the message. -/
def nextBytes (s : State) : Option (List Byte) :=
  readBytes s (s.mbase.toNat + s.off.toNat) (min 64 (s.mlen.toNat - s.off.toNat))

@[simp] theorem withMemory_seq (mem : List Host.Cell) (bw : Bool) (s : State) :
    (withMemory mem bw s).seq = s.seq := rfl
@[simp] theorem withMemory_i (mem : List Host.Cell) (bw : Bool) (s : State) : (withMemory mem bw s).i = s.i := rfl
@[simp] theorem withMemory_mode (mem : List Host.Cell) (bw : Bool) (s : State) :
    (withMemory mem bw s).mode = s.mode := rfl
@[simp] theorem withMemory_phase (mem : List Host.Cell) (bw : Bool) (s : State) :
    (withMemory mem bw s).phase = s.phase := rfl
@[simp] theorem withMemory_mbase (mem : List Host.Cell) (bw : Bool) (s : State) :
    (withMemory mem bw s).mbase = s.mbase := rfl
@[simp] theorem withMemory_mlen (mem : List Host.Cell) (bw : Bool) (s : State) :
    (withMemory mem bw s).mlen = s.mlen := rfl
@[simp] theorem withMemory_off (mem : List Host.Cell) (bw : Bool) (s : State) :
    (withMemory mem bw s).off = s.off := rfl
@[simp] theorem withMemory_msgDisturbed (mem : List Host.Cell) (bw : Bool) (s : State) :
    (withMemory mem bw s).msgDisturbed = s.msgDisturbed := rfl

theorem nextFull_withMemory {mem : List Host.Cell} {bw : Bool} {s : State}
    (hreads : nextBytes (withMemory mem bw s) = nextBytes s) (hrem : 64 ≤ s.mlen.toNat - s.off.toNat) :
    nextFull (withMemory mem bw s) = withMemory mem bw (nextFull s) := by
  simp only [nextBytes, withMemory_mbase, withMemory_mlen, withMemory_off, Nat.min_eq_left hrem] at hreads
  simp only [nextFull, withMemory_mbase, withMemory_off, hreads]
  cases readBytes s (s.mbase.toNat + s.off.toNat) 64 <;> rfl

theorem nextFinal_withMemory {mem : List Host.Cell} {bw : Bool} {s : State}
    (hreads : nextBytes (withMemory mem bw s) = nextBytes s) (hrem : s.mlen.toNat - s.off.toNat ≤ 64) :
    nextFinal (withMemory mem bw s) (s.mlen.toNat - s.off.toNat) =
      withMemory mem bw (nextFinal s (s.mlen.toNat - s.off.toNat)) := by
  simp only [nextBytes, withMemory_mbase, withMemory_mlen, withMemory_off, Nat.min_eq_right hrem] at hreads
  simp only [nextFinal, withMemory_mbase, withMemory_off, hreads]
  cases readBytes s (s.mbase.toNat + s.off.toNat) (s.mlen.toNat - s.off.toNat) with
  | none => rfl
  | some tail => dsimp only; split <;> rfl

theorem nextDone_withMemory (mem : List Host.Cell) (bw : Bool) (s : State) :
    nextDone (withMemory mem bw s) = withMemory mem bw (nextDone s) := by
  unfold nextDone
  rw [withMemory_msgDisturbed]
  cases s.msgDisturbed <;> rfl

theorem stepNext_withMemory {mem : List Host.Cell} {bw : Bool} {s : State}
    (hreads : s.phase = .data → nextBytes (withMemory mem bw s) = nextBytes s) :
    stepNext (withMemory mem bw s) = withMemory mem bw (stepNext s) := by
  unfold stepNext
  rw [withMemory_phase, withMemory_mlen, withMemory_off]
  cases hp : s.phase with
  | data =>
    dsimp only
    split
    next hrem => exact nextFull_withMemory (hreads hp) hrem
    next hrem => exact nextFinal_withMemory (hreads hp) (Nat.le_of_not_le hrem)
  | extra => rfl
  | last => exact nextDone_withMemory mem bw s

theorem stepRound_withMemory (mem : List Host.Cell) (bw : Bool) (s : State) :
    stepRound (withMemory mem bw s) = withMemory mem bw (stepRound s) := by
  unfold stepRound
  rw [withMemory_i]
  split <;> rfl

theorem stepFeed_withMemory (mem : List Host.Cell) (bw : Bool) (s : State) :
    stepFeed (withMemory mem bw s) = withMemory mem bw (stepFeed s) := by
  unfold stepFeed
  rw [withMemory_mode]
  cases s.mode <;> rfl

/-- A core step does the same with another BWERR and another memory in which NEXT reads the same bytes. -/
theorem coreStep_withMemory {mem : List Host.Cell} {bw : Bool} {s : State}
    (hreads : s.seq = .next → s.phase = .data → nextBytes (withMemory mem bw s) = nextBytes s) :
    coreStep (withMemory mem bw s) = withMemory mem bw (coreStep s) := by
  have hseq : (withMemory mem bw s).seq = s.seq := withMemory_seq mem bw s
  cases hs : s.seq with
  | idle => rw [coreStep_idle hs, coreStep_idle (hseq.trans hs)]
  | nop1 => rw [coreStep_nop1 hs, coreStep_nop1 (hseq.trans hs)]; rfl
  | init1 => rw [coreStep_init1 hs, coreStep_init1 (hseq.trans hs)]; rfl
  | xstart => rw [coreStep_xstart hs, coreStep_xstart (hseq.trans hs)]; rfl
  | hstart => rw [coreStep_hstart hs, coreStep_hstart (hseq.trans hs)]; rfl
  | next => rw [coreStep_next hs, coreStep_next (hseq.trans hs), stepNext_withMemory (hreads hs)]
  | round => rw [coreStep_round hs, coreStep_round (hseq.trans hs), stepRound_withMemory]
  | feed => rw [coreStep_feed hs, coreStep_feed (hseq.trans hs), stepFeed_withMemory]

/-! ## A write while busy -/

/-- A command presented while BUSY = 1 is a dropped write (R56). -/
theorem exec_busy {s : State} (hb : s.busy = true) (i : Instr) : exec i s = .next (dropWrite s) := by
  obtain ⟨t, ht⟩ := exec_answers i s
  rcases exec_cases ht with ⟨-, rfl⟩ | ⟨hidle, -⟩ | ⟨hidle, -⟩
  · exact ht
  · simp [hb] at hidle
  · simp [hb] at hidle

theorem busWrite_busy {s : State} (hb : s.busy = true) (off : BitVec 7) (v : Word) :
    busWrite off v s = .next (dropWrite s) := by
  simp [busWrite, hb]

theorem coreStep_dropWrite (s : State) : coreStep (dropWrite s) = dropWrite (coreStep s) := by
  have hsame : nextBytes (withMemory s.msgMem true s) = nextBytes s :=
    readBytes_congr _ _ fun _ _ => memRead_congr rfl rfl _
  have hcomm : coreStep (dropWrite s) = withMemory s.msgMem true (coreStep s) := coreStep_withMemory fun _ _ => hsame
  rw [hcomm, ← coreStep_msgMem s]
  rfl

/-- Settles O13: each core step commutes with the dropped write, so a run of them does. -/
theorem busyWriteIsDropped : Obligations.BusyWriteIsDropped := by
  refine ⟨fun s hb => ⟨busWrite_busy hb, exec_busy hb⟩, ?goesOn⟩
  case goesOn =>
    intro n
    induction n with
    | zero => intro s; rfl
    | succ n ih =>
      intro s
      calc coreRun (n + 1) (dropWrite s)
          = coreRun n (dropWrite (coreStep s)) := by rw [coreRun_succ, coreStep_dropWrite]
        _ = dropWrite (coreRun (n + 1) s) := ih (coreStep s)

/-! ## The bytes a core step depends on -/

/-- In a state of the invariant, NEXT reads inside the message: the latches hold its address and its length, and the
offset is not past it (R59, R174). -/
theorem nextBytes_withMemory {mem : List Host.Cell} {s : State} (hl : LatchesOk s)
    (hmem : ∀ a, s.msgAddr.toNat ≤ a → a < s.msgAddr.toNat + s.len.toNat →
      memRead { s with msgMem := mem } a = memRead s a) :
    nextBytes (withMemory mem s.bwerr s) = nextBytes s := by
  have hoff := hl.offset
  unfold nextBytes
  rw [withMemory_mbase, withMemory_mlen, withMemory_off, hl.base]
  refine readBytes_congr _ _ fun k hk => hmem _ (by omega) ?_
  rw [← hl.length]
  omega

/-- Settles O32: of the core steps only NEXT reads memory, and it reads inside the message. -/
theorem coreReadsOnlyTheMessage : Obligations.CoreReadsOnlyTheMessage := by
  intro s mem hi hmem
  have hcomm : coreStep { s with msgMem := mem } = withMemory mem s.bwerr (coreStep s) :=
    coreStep_withMemory fun hs _ => nextBytes_withMemory (hi.latches (.inl hs)) hmem
  rw [hcomm, ← coreStep_bwerr s]
  rfl

/-! ## Who writes message memory -/

theorem exec_memory {i : Instr} {s t : State} (h : exec i s = .next t) : t.msgMem = s.msgMem ∧ t.cfg = s.cfg := by
  rcases exec_cases h with ⟨-, rfl⟩ | ⟨-, q, -, -, -, -, -, rfl⟩ | ⟨-, -, -, rfl⟩ <;> exact ⟨rfl, rfl⟩

/-- A host write reaches the window alone (R55). -/
theorem busWrite_memory {off : BitVec 7} {v : Word} {s t : State} (h : busWrite off v s = .next t) :
    t.msgMem = s.msgMem ∧ t.cfg = s.cfg := by
  rcases busWrite_cases h with ⟨-, rfl⟩ | ⟨-, rfl⟩ | ⟨-, rfl⟩ | ⟨-, i, hex⟩ | ⟨-, rfl⟩ | ⟨-, rfl⟩ | ⟨-, _, rfl⟩ |
    ⟨-, _, rfl⟩ | ⟨-, _, rfl⟩
  case inr.inr.inr.inl => exact exec_memory hex
  all_goals exact ⟨rfl, rfl⟩

theorem hostStep_memory {s t : State} (h : hostStep s = .next t) : t.msgMem = s.msgMem ∧ t.cfg = s.cfg := by
  rcases hostStep_cases h with ⟨_, _, _, -, rfl⟩ | ⟨_, _, _, -, -, hw⟩
  · exact ⟨rfl, rfl⟩
  · exact busWrite_memory (s := advanceHost s) hw

/-- A step of any agent but a platform path that changes memory. -/
theorem step_memory {s t : State} (h : step s = .next t) (hmessage : ∀ a b rest, s.turns ≠ .message a b :: rest)
    (hvisible : ∀ n rest, s.turns ≠ .visible n :: rest) : t.msgMem = s.msgMem ∧ t.cfg = s.cfg := by
  rcases step_cases h with ⟨-, -, hh⟩ | ⟨-, -, rfl⟩ | ⟨rest, -, rfl⟩ | ⟨rest, -, hh⟩ | ⟨rest, -, rfl⟩ |
    ⟨a, b, rest, hturn, -⟩ | ⟨a, b, rest, -, rfl⟩ | ⟨n, rest, hturn, -⟩
  · exact hostStep_memory hh
  · exact ⟨coreStep_msgMem s, coreStep_cfg s⟩
  · exact ⟨coreStep_msgMem _, coreStep_cfg _⟩
  · exact hostStep_memory (s := { s with turns := rest }) hh
  · exact ⟨rfl, rfl⟩
  · exact absurd hturn (hmessage a b rest)
  · exact ⟨rfl, rfl⟩
  · exact absurd hturn (hvisible n rest)

/-- Settles O35: a read sees the memory and the address width, and both are kept. -/
theorem messageMemoryIsNeverWritten : Obligations.MessageMemoryIsNeverWritten := by
  refine ⟨coreStep_msgMem, fun i s t h => (exec_memory h).1, ?steps⟩
  case steps =>
    intro s t h hmessage hvisible a
    obtain ⟨hmem, hcfg⟩ := step_memory h hmessage hvisible
    exact memRead_congr hmem hcfg a

end Sys2Proof.Machine
end

section
/-! PROOFS. The window as a set of registers: what a read and a write of each do, said once by register
(spec/20_memory.md R53 to R55, R66). -/

namespace Sys2Proof.Machine

/-! ## Registers and their offsets -/

/-- What a read of a register answers while idle (R53). -/
def Reg.value (s : State) : Reg → Word
  | .cmd => 0
  | .status => statusWord s
  | .msgAddrLo => loHalf s.msgAddr
  | .msgAddrHi => hiHalf s.msgAddr
  | .lenLo => loHalf s.len
  | .lenHi => hiHalf s.len
  | .state k => Quad.getWord s.h k
  | .block n => s.m.get n

/-- The registers whose value is unspecified while BUSY = 1 (R54). -/
def Reg.drawnWhileBusy : Reg → Bool
  | .state _ => true
  | .block _ => true
  | _ => false

/-- What a write of `v` stores in a register: all of it, but in MSG_ADDR the bits below ADDR_WIDTH alone (R55). -/
def Reg.stored (c : Config) (v : Word) : Reg → Word
  | .msgAddrLo => v &&& loHalf (lowmask c.addrWidth)
  | .msgAddrHi => v &&& hiHalf (lowmask c.addrWidth)
  | _ => v

/-- The state after a write of `v` to a register other than CMD while idle (R55). -/
def Reg.assign (v : Word) (s : State) : Reg → State
  | .cmd => s
  | .status => s
  | .msgAddrLo => { s with msgAddr := setLo s.msgAddr (Reg.stored s.cfg v .msgAddrLo) }
  | .msgAddrHi => { s with msgAddr := setHi s.msgAddr (Reg.stored s.cfg v .msgAddrHi) }
  | .lenLo => { s with len := setLo s.len v }
  | .lenHi => { s with len := setHi s.len v }
  | .state k => { s with h := Quad.setWord s.h k v }
  | .block n => { s with m := s.m.set n.val v n.isLt }

/-- An aligned offset that names a register is that register's offset (R32). -/
theorem Reg.offset_of_ofOffset {off : BitVec 7} {r : Reg} (halign : off.toNat % 4 = 0)
    (h : Reg.ofOffset off = some r) : off = Reg.offset r := by
  have hall : ∀ off : BitVec 7, off.toNat % 4 = 0 → (Reg.ofOffset off).all (fun r => off == Reg.offset r) = true := by
    decide
  simpa [h] using hall off halign

theorem Reg.offset_state_toNat (k : Fin 4) : (Reg.offset (.state k)).toNat = 0x20 + 4 * k.val := by
  revert k; decide

theorem Reg.offset_block_toNat (n : Fin 16) : (Reg.offset (.block n)).toNat = 0x40 + 4 * n.val := by
  revert n; decide

theorem Reg.ofOffset_reserved : ∀ off : BitVec 7,
    off = 0x18 ∨ off = 0x1C ∨ off = 0x30 ∨ off = 0x34 ∨ off = 0x38 ∨ off = 0x3C → Reg.ofOffset off = none := by
  decide

/-! ## Reads -/

/-- A read whose answer no running command makes unspecified (R53, R54). -/
theorem busRead_value {off : BitVec 7} {r : Reg} {s : State} (h : Reg.ofOffset off = some r)
    (herr : r = .status → errLegal s.err = true) (hsettled : s.busy = true → Reg.drawnWhileBusy r = false) :
    busRead off s = .next (Reg.value s r, s) := by
  cases r with
  | status => simp [busRead, h, herr rfl, Reg.value]
  | state k =>
    have hb : s.busy = false := by simpa [Reg.drawnWhileBusy] using hsettled
    simp [busRead, h, readOrDraw, hb, Reg.value]
  | block n =>
    have hb : s.busy = false := by simpa [Reg.drawnWhileBusy] using hsettled
    simp [busRead, h, readOrDraw, hb, Reg.value]
  | _ => simp [busRead, h, Reg.value]

theorem busRead_drawn {off : BitVec 7} {r : Reg} {s : State} (h : Reg.ofOffset off = some r) (hb : s.busy = true)
    (hr : Reg.drawnWhileBusy r = true) : busRead off s = .next (drawWord s) := by
  cases r with
  | state k => simp [busRead, h, readOrDraw, hb]
  | block n => simp [busRead, h, readOrDraw, hb]
  | _ => cases hr

theorem busRead_none {off : BitVec 7} (s : State) (h : Reg.ofOffset off = none) : busRead off s = .next (0, s) := by
  simp [busRead, h]

theorem busRead_idle {s : State} (hb : s.busy = false) {r : Reg} (hr : r ≠ .status) :
    busRead (Reg.offset r) s = .next (Reg.value s r, s) :=
  busRead_value (Reg.ofOffset_offset r) (fun h => absurd h hr) (by simp [hb])

theorem busRead_status {s : State} (herr : errLegal s.err = true) : busRead 0x04 s = .next (statusWord s, s) :=
  busRead_value (r := .status) rfl (fun _ => herr) (fun _ => rfl)

/-- A read of STATUS that answers has found a legal ERR code (U6). -/
theorem errLegal_of_busRead_status {s : State} {p : Word × State} (h : busRead (Reg.offset .status) s = .next p) :
    errLegal s.err = true := by
  by_contra herr
  simp [busRead, herr] at h

/-- Settles O40: each offset is its register's, and an idle read answers the register's value. -/
theorem idleReadReturnsTheRegister : Obligations.IdleReadReturnsTheRegister := by
  intro s hb
  have hread (r : Reg) (hr : r ≠ .status) : busRead (Reg.offset r) s = .next (Reg.value s r, s) := busRead_idle hb hr
  exact ⟨hread .cmd (by decide), fun herr => busRead_status (decide_eq_true herr),
    hread .msgAddrLo (by decide), hread .msgAddrHi (by decide), hread .lenLo (by decide), hread .lenHi (by decide),
    hread (.state 0) (by decide), hread (.state 1) (by decide), hread (.state 2) (by decide),
    hread (.state 3) (by decide), fun n => hread (.block n) (by simp),
    fun off h => busRead_none s (Reg.ofOffset_reserved off h)⟩

/-- The offsets of STATE and BLOCK name registers that are drawn while busy (R32, R54). -/
theorem Reg.ofOffset_drawn : ∀ off : BitVec 7, off.toNat % 4 = 0 →
    (0x20 ≤ off.toNat ∧ off.toNat ≤ 0x2C) ∨ 0x40 ≤ off.toNat →
    (Reg.ofOffset off).any Reg.drawnWhileBusy = true := by
  decide

/-- No other offset names one. -/
theorem Reg.not_drawn_of_ofOffset {off : BitVec 7} {r : Reg} (halign : off.toNat % 4 = 0)
    (hrange : off.toNat < 0x20 ∨ (0x30 ≤ off.toNat ∧ off.toNat < 0x40)) (h : Reg.ofOffset off = some r) :
    Reg.drawnWhileBusy r = false := by
  have hoff := Reg.offset_of_ofOffset halign h
  cases r with
  | state k => have := Reg.offset_state_toNat k; rw [← hoff] at this; omega
  | block n => have := Reg.offset_block_toNat n; rw [← hoff] at this; omega
  | _ => rfl

theorem Reg.value_set_busy {r : Reg} (hr : r ≠ .status) (s : State) (b : Bool) :
    Reg.value { s with busy := b } r = Reg.value s r := by
  cases r with
  | status => exact absurd rfl hr
  | _ => rfl

/-- Settles O41: by the register the offset names. -/
theorem busyReadIsADraw : Obligations.BusyReadIsADraw := by
  intro s hb
  refine ⟨?drawn, ?settled, fun herr => busRead_status (decide_eq_true herr)⟩
  case drawn =>
    intro off halign hrange
    obtain ⟨r, hr, hdrawn⟩ := (Option.any_eq_true _ _).mp (Reg.ofOffset_drawn off halign hrange)
    exact busRead_drawn hr hb hdrawn
  case settled =>
    intro off halign hrange x hidle hstatus
    cases h : Reg.ofOffset off with
    | none =>
      rw [busRead_none _ h] at hidle ⊢
      cases hidle
      rfl
    | some r =>
      have hr : r ≠ .status := by
        rintro rfl
        exact hstatus (Reg.offset_of_ofOffset halign h)
      have hread (u : State) : busRead off u = .next (Reg.value u r, u) :=
        busRead_value h (fun e => absurd e hr) fun _ => Reg.not_drawn_of_ofOffset halign hrange h
      rw [hread] at hidle ⊢
      cases hidle
      rw [Reg.value_set_busy hr s false]

/-! ## Writes -/

theorem busWrite_assign {off : BitVec 7} {r : Reg} {s : State} (h : Reg.ofOffset off = some r) (hb : s.busy = false)
    (hr : r ≠ .cmd) (v : Word) : busWrite off v s = .next (Reg.assign v s r) := by
  cases r with
  | cmd => exact absurd rfl hr
  | _ => simp [busWrite, h, hb, Reg.assign, Reg.stored]

theorem busWrite_idle {s : State} (hb : s.busy = false) {r : Reg} (hr : r ≠ .cmd) (v : Word) :
    busWrite (Reg.offset r) v s = .next (Reg.assign v s r) :=
  busWrite_assign (Reg.ofOffset_offset r) hb hr v

theorem busWrite_cmd {s : State} (hb : s.busy = false) (v : Word) :
    busWrite (Reg.offset .cmd) v s = takeCommand v s := by
  simp [busWrite, hb]

theorem busWrite_none {off : BitVec 7} {s : State} (h : Reg.ofOffset off = none) (hb : s.busy = false) (v : Word) :
    busWrite off v s = .next s := by
  simp [busWrite, h, hb]

@[simp] theorem loHalf_setLo (x : BitVec 64) (v : Word) : loHalf (setLo x v) = v := by
  apply BitVec.eq_of_getLsbD_eq
  intro k hk
  simp [loHalf, getLsbD_setLo, hk]

@[simp] theorem hiHalf_setLo (x : BitVec 64) (v : Word) : hiHalf (setLo x v) = hiHalf x := by
  apply BitVec.eq_of_getLsbD_eq
  intro k hk
  simp [hiHalf, getLsbD_setLo]

@[simp] theorem loHalf_setHi (x : BitVec 64) (v : Word) : loHalf (setHi x v) = loHalf x := by
  apply BitVec.eq_of_getLsbD_eq
  intro k hk
  simp [loHalf, getLsbD_setHi, hk]

@[simp] theorem hiHalf_setHi (x : BitVec 64) (v : Word) : hiHalf (setHi x v) = v := by
  apply BitVec.eq_of_getLsbD_eq
  intro k hk
  simp [hiHalf, getLsbD_setHi, hk]

/-- Settles O43: each offset is its register's, and an idle write assigns that register. -/
theorem idleWriteSetsTheRegister : Obligations.IdleWriteSetsTheRegister := by
  intro s v hb
  have hwrite (r : Reg) (hr : r ≠ .cmd) : busWrite (Reg.offset r) v s = .next (Reg.assign v s r) :=
    busWrite_idle hb hr v
  exact ⟨busWrite_cmd hb v, hwrite .status (by decide),
    ⟨_, hwrite .msgAddrLo (by decide), hiHalf_setLo _ _, loHalf_setLo _ _⟩,
    ⟨_, hwrite .msgAddrHi (by decide), loHalf_setHi _ _, hiHalf_setHi _ _⟩,
    ⟨_, hwrite .lenLo (by decide), hiHalf_setLo _ _, loHalf_setLo _ _⟩,
    ⟨_, hwrite .lenHi (by decide), loHalf_setHi _ _, hiHalf_setHi _ _⟩,
    hwrite (.state 0) (by decide), hwrite (.state 1) (by decide), hwrite (.state 2) (by decide),
    hwrite (.state 3) (by decide), fun n => hwrite (.block n) (by simp),
    fun off h => busWrite_none (Reg.ofOffset_reserved off h) hb v⟩

/-! ## Reading after writing -/

theorem Quad.getWord_setWord (q : Quad) (k k' : Fin 4) (v : Word) :
    Quad.getWord (Quad.setWord q k v) k' = if k' = k then v else Quad.getWord q k' := by
  fin_cases k <;> fin_cases k' <;> rfl

theorem Block.get_set (m : Block) (n n' : Fin 16) (v : Word) :
    (m.set n.val v n.isLt).get n' = if n' = n then v else m.get n' := by
  simp [Vector.get_eq_getElem, Vector.getElem_set, Fin.ext_iff, eq_comm]

theorem Reg.value_assign_same {r : Reg} (hcmd : r ≠ .cmd) (hstatus : r ≠ .status) (v : Word) (s : State) :
    Reg.value (Reg.assign v s r) r = Reg.stored s.cfg v r := by
  cases r with
  | cmd => exact absurd rfl hcmd
  | status => exact absurd rfl hstatus
  | state k => simp [Reg.value, Reg.assign, Reg.stored, Quad.getWord_setWord]
  | block n => simp [Reg.value, Reg.assign, Reg.stored, Block.get_set]
  | _ => simp [Reg.value, Reg.assign, Reg.stored]

/-- An assignment changes one of MSG_ADDR, LEN, `H` and `M`; in it, the other registers have other bits. -/
theorem Reg.value_assign_other {r r' : Reg} (hne : r' ≠ r) (v : Word) (s : State) :
    Reg.value (Reg.assign v s r) r' = Reg.value s r' := by
  cases r with
  | cmd => rfl
  | status => rfl
  | state k => cases r' <;> simp_all [Reg.value, Reg.assign, statusWord, Quad.getWord_setWord]
  | block n => cases r' <;> simp_all [Reg.value, Reg.assign, statusWord, Block.get_set]
  | _ => cases r' <;> simp_all [Reg.value, Reg.assign, statusWord]

theorem Reg.assign_busy (r : Reg) (v : Word) (s : State) : (Reg.assign v s r).busy = s.busy := by
  cases r <;> rfl

theorem Reg.assign_err (r : Reg) (v : Word) (s : State) : (Reg.assign v s r).err = s.err := by
  cases r <;> rfl

/-- Settles O44: an idle read answers the register's value, which an assignment to it sets and another keeps. -/
theorem writtenRegisterReadsBack : Obligations.WrittenRegisterReadsBack := by
  intro s t r v hb hcmd hstatus hw
  rw [busWrite_idle hb hcmd] at hw
  cases hw
  have hbt : (Reg.assign v s r).busy = false := (Reg.assign_busy r v s).trans hb
  refine ⟨?same, ?other⟩
  case same =>
    rw [busRead_idle hbt hstatus, Reg.value_assign_same hcmd hstatus]
    cases r <;> rfl
  case other =>
    intro r' x hne hread
    have herr (h : r' = .status) : errLegal s.err = true := by
      subst h
      exact errLegal_of_busRead_status hread
    rw [busRead_value (Reg.ofOffset_offset r') herr (by simp [hb])] at hread
    cases hread
    rw [busRead_value (Reg.ofOffset_offset r') (by rwa [Reg.assign_err]) (by simp [hbt]), Reg.value_assign_other hne]

/-! ## Bus accesses -/

theorem supportedOffset_eq_none {c : Config} {addr width : Nat} (h : width ≠ 32 ∨ (addr - c.base) % 4 ≠ 0) :
    supportedOffset c addr width = none := by
  unfold supportedOffset
  rw [if_neg]
  rintro ⟨hwidth, -, -, halign⟩
  rcases h with h | h <;> contradiction

theorem touchesWindow_of_mem {c : Config} {addr : Nat} (width : Nat) (hlo : c.base ≤ addr) (hhi : addr < c.base + 128) :
    touchesWindow c addr width = true := by
  have hbyte : c.base < addr + max 1 ((width + 7) / 8) := by omega
  simp [touchesWindow, hhi, hbyte]

theorem supportedOffset_base_add {c : Config} {off : BitVec 7} (halign : off.toNat % 4 = 0) :
    supportedOffset c (c.base + off.toNat) 32 = some off := by
  have hoff := off.isLt
  unfold supportedOffset
  rw [if_pos (by omega), Nat.add_sub_cancel_left, BitVec.ofNat_toNat, BitVec.setWidth_eq]

/-- Settles O45: such an access names no offset, and it touches the window. -/
theorem unsupportedAccessIsRefused : Obligations.UnsupportedAccessIsRefused := by
  intro s addr width t v _ hlo hhi _ hbad
  have hnone := supportedOffset_eq_none hbad
  have htouch := touchesWindow_of_mem width hlo hhi
  exact ⟨by simp [rawWrite, hnone, htouch], by simp [rawRead, hnone, htouch]⟩

/-- Settles O46: the address is BASE plus the offset. -/
theorem supportedAccessNamesItsOffset : Obligations.SupportedAccessNamesItsOffset := by
  intro s off t v halign
  have hoff : supportedOffset s.cfg (s.cfg.base + off.toNat) 32 = some off := supportedOffset_base_add halign
  exact ⟨by simp [rawWrite, hoff], by simp [rawRead, hoff]⟩

end Sys2Proof.Machine
end

section
/-! PROOFS. The command decoder and encoder are inverse to each other, on words and on bytes (spec/30_encoding.md R80 to
R84). -/

namespace Sys2Proof

/-! ## The fields of a command word -/

@[simp] theorem CmdW.toWord_ofWord (v : Word) : (CmdW.ofWord v).toWord = v := by
  simp only [CmdW.toWord, CmdW.ofWord]
  rw [BitVec.extractLsb'_append_extractLsb'_eq_extractLsb' (by decide)]
  exact BitVec.extractLsb'_eq_self

@[simp] theorem CmdW.ofWord_toWord (f : CmdW) : CmdW.ofWord f.toWord = f := by
  have hrsv : (f.rsv ++ f.opc).extractLsb' 4 28 = f.rsv := BitVec.extractLsb'_append_eq_left
  have hopc : (f.rsv ++ f.opc).extractLsb' 0 4 = f.opc := BitVec.extractLsb'_append_eq_right
  simp only [CmdW.ofWord, CmdW.toWord, hrsv, hopc]

/-- A word has the fields of `f` exactly if it is the word made of them: the two fields are all of it (R80). -/
theorem CmdW.ofWord_eq_iff {v : Word} {f : CmdW} : CmdW.ofWord v = f ↔ v = f.toWord := by
  constructor
  · rintro rfl; exact (CmdW.toWord_ofWord v).symm
  · rintro rfl; exact CmdW.ofWord_toWord f

theorem instrOfOpc_eq_some_iff {opc : BitVec 4} {i : Instr} : instrOfOpc opc = some i ↔ opc = opcOf i := by
  cases i <;> (revert opc; decide)

theorem instrOfOpc_unassigned {opc : BitVec 4} (h : 4 ≤ opc.toNat) : instrOfOpc opc = none := by
  revert opc; decide

/-! ## The decoder, field by field -/

theorem decode_reserved {v : Word} (hrsv : (CmdW.ofWord v).rsv ≠ 0) :
    decode v = .error (.reservedBits (CmdW.ofWord v).rsv) :=
  if_pos hrsv

theorem decode_assigned {v : Word} {i : Instr} (hrsv : (CmdW.ofWord v).rsv = 0)
    (hopc : (CmdW.ofWord v).opc = opcOf i) : decode v = .ok i := by
  simp [decode, hrsv, instrOfOpc_eq_some_iff.mpr hopc]

theorem decode_unassigned {v : Word} (hrsv : (CmdW.ofWord v).rsv = 0) (hopc : 4 ≤ (CmdW.ofWord v).opc.toNat) :
    decode v = .error (.illegalOpcode (CmdW.ofWord v).opc) := by
  simp [decode, hrsv, instrOfOpc_unassigned hopc]

/-- A word decodes to a command exactly if its fields are those the encoder writes. -/
theorem decode_eq_ok_iff_fields {v : Word} {i : Instr} :
    decode v = .ok i ↔ CmdW.ofWord v = { rsv := 0, opc := opcOf i } := by
  constructor
  · intro h
    by_cases hrsv : (CmdW.ofWord v).rsv = 0
    · cases hopc : instrOfOpc (CmdW.ofWord v).opc with
      | none => simp [decode, hrsv, hopc] at h
      | some j =>
        have hj : j = i := by simpa [decode, hrsv, hopc] using h
        rw [← hrsv, ← hj, ← instrOfOpc_eq_some_iff.mp hopc]
    · rw [decode_reserved hrsv] at h
      cases h
  · intro h
    exact decode_assigned (by rw [h]) (by rw [h])

theorem decode_eq_ok_iff {v : Word} {i : Instr} : decode v = .ok i ↔ v = encode i :=
  decode_eq_ok_iff_fields.trans CmdW.ofWord_eq_iff

@[simp] theorem decode_encode (i : Instr) : decode (encode i) = .ok i := decode_eq_ok_iff.mpr rfl

/-- The byte decoder decodes the word whose bytes come first, and leaves the bytes after them (R52, R80). -/
theorem decodeBytes_wordBytes {v : Word} {i : Instr} (h : decode v = .ok i) (rest : List Byte) :
    decodeBytes (wordBytes v ++ rest) = .ok (i, rest) := by
  simp [wordBytes, decodeBytes, Machine.le32_byteOf, h]

/-! ## The obligations -/

/-- Settles O2: the two fields make up the whole word, and the four bytes make up the word. -/
theorem decodeEncodeAgree : Obligations.DecodeEncodeAgree :=
  ⟨fun _ _ => decode_eq_ok_iff, fun i rest => decodeBytes_wordBytes (decode_encode i) rest⟩

/-- Settles O1: the first four words are the encoder's, the others are no command by RSV or by OPC. -/
theorem specWordsDecode : Obligations.SpecWordsDecode :=
  ⟨decode_encode .nop, decode_encode .init, decode_encode .transform, decode_encode .hash,
    decode_unassigned rfl (by decide), decode_unassigned rfl (by decide), decode_reserved (by decide),
    decode_reserved (by decide), decode_reserved (by decide), decode_reserved (by decide)⟩

/-- Settles O3: by the value of RSV, then of OPC, whose bits are the fields of the decoder. -/
theorem decodeFollowsTheFields : Obligations.DecodeFollowsTheFields := by
  intro v
  have hopc (i : Instr) (hrsv : v.extractLsb 31 4 = 0) (h : v.extractLsb 3 0 = opcOf i) : decode v = .ok i :=
    decode_assigned hrsv h
  exact ⟨fun hrsv => ⟨_, decode_reserved hrsv⟩, fun hrsv =>
    ⟨hopc .nop hrsv, hopc .init hrsv, hopc .transform hrsv, hopc .hash hrsv,
      fun h => ⟨_, decode_unassigned hrsv h⟩⟩⟩

end Sys2Proof
end

section
/-! PROOFS. What the round index selects: the group of sixteen rounds, and in it the function, the constant, the amount
and the message word (spec/40_round_logic.md R104, R106 to R108). -/

namespace Sys2Proof.Machine

/-- The 64 rounds are four groups of sixteen. -/
theorem round_group (i : BitVec 6) :
    i.toNat / 16 = 0 ∨ i.toNat / 16 = 1 ∨ i.toNat / 16 = 2 ∨ i.toNat / 16 = 3 := by
  have hi := i.isLt
  omega

theorem mixFn_of_group (i : BitVec 6) (x y z : Word) :
    (i.toNat / 16 = 0 → mixFn i x y z = mixF x y z) ∧ (i.toNat / 16 = 1 → mixFn i x y z = mixG x y z) ∧
    (i.toNat / 16 = 2 → mixFn i x y z = mixH x y z) ∧ (i.toNat / 16 = 3 → mixFn i x y z = mixI x y z) := by
  unfold mixFn
  refine ⟨fun h => ?_, fun h => ?_, fun h => ?_, fun h => ?_⟩
  · rw [if_pos (by omega)]
  · rw [if_neg (by omega), if_pos (by omega)]
  · rw [if_neg (by omega), if_neg (by omega), if_pos (by omega)]
  · rw [if_neg (by omega), if_neg (by omega), if_neg (by omega)]

/-- The table has an entry for every round, so the default of `kConst` is never read. -/
theorem kTable_getElem? (i : BitVec 6) : kTable[i.toNat]? = some (kConst i) := by
  have hi : i.toNat < kTable.length := i.isLt
  rw [kConst, List.getD_eq_getElem _ _ hi, List.getElem?_eq_getElem hi]

theorem gIndex_of_group (i : BitVec 6) :
    (i.toNat / 16 = 0 → (gIndex i).val = i.toNat) ∧
    (i.toNat / 16 = 1 → (gIndex i).val = (5 * i.toNat + 1) % 16) ∧
    (i.toNat / 16 = 2 → (gIndex i).val = (3 * i.toNat + 5) % 16) ∧
    (i.toNat / 16 = 3 → (gIndex i).val = (7 * i.toNat) % 16) := by
  unfold gIndex
  refine ⟨fun h => ?_, fun h => ?_, fun h => ?_, fun h => ?_⟩
  · have hlt : i.toNat < 16 := by omega
    simp only [h, Fin.val_ofNat, Nat.mod_eq_of_lt hlt]
  · simp only [h, Fin.val_ofNat]
  · simp only [h, Fin.val_ofNat]
  · simp only [h, Fin.val_ofNat]

/-- The round of group `grp` that reads message word `n`: each group's index is affine in the round modulo 16, with an
odd factor (1, 5, 3, 7), and is solved with that factor's inverse (1, 13, 11, 7). -/
def readingRound (grp : Fin 4) (n : Fin 16) : BitVec 6 :=
  BitVec.ofNat 6 (16 * grp.val + match grp with
    | 0 => n.val
    | 1 => 13 * (n.val + 15) % 16
    | 2 => 11 * (n.val + 11) % 16
    | 3 => 7 * n.val % 16)

theorem gIndex_readingRound : ∀ (grp : Fin 4) (n : Fin 16),
    (readingRound grp n).toNat / 16 = grp.val ∧ gIndex (readingRound grp n) = n := by
  decide

/-- Settles O52: by the group of the round; the amounts are compared for the 64 rounds one by one. -/
theorem roundIndexSelects : Obligations.RoundIndexSelects := by
  refine ⟨?function, ?constant, ?amount, ?word, ?everyWord⟩
  case function =>
    intro i x y z
    obtain ⟨hF, hG, hH, hI⟩ := mixFn_of_group i x y z
    rcases round_group i with h | h | h | h <;> simp only [h, hF, hG, hH, hI]
  case constant => exact fun i => (kTable_getElem? i).symm
  case amount => decide
  case word =>
    intro i
    obtain ⟨h0, h1, h2, h3⟩ := gIndex_of_group i
    rcases round_group i with h | h | h | h <;> simp only [h, h0, h1, h2, h3]
  case everyWord => exact fun n grp => ⟨readingRound grp n, gIndex_readingRound grp n⟩

end Sys2Proof.Machine
end

section
/-! PROOFS. The host's lines, one rule per line, and the pseudo-instructions SETMSG and WAIT run line by line while the
core is idle (spec/30_encoding.md R86, R87). -/

namespace Sys2Proof.Machine

/-! ## Lines -/

theorem hostVar_setHostVar (t t' : Nat) (v : Word) (s : State) :
    hostVar (setHostVar t v s) t' = if t' = t then v else hostVar s t' := by
  simp only [hostVar, setHostVar_hostVars, Cells.lookup_insert]
  split <;> rfl

@[simp] theorem hostVar_setHostVar_same (t : Nat) (v : Word) (s : State) : hostVar (setHostVar t v s) t = v := by
  rw [hostVar_setHostVar, if_pos rfl]

theorem hostVar_congr {s u : State} (h : u.hostVars = s.hostVars) (t : Nat) : hostVar u t = hostVar s t := by
  simp only [hostVar, h]

/-- A window read is no assignment to a host variable. -/
theorem busRead_hostVars {off : BitVec 7} {s : State} {r : Word × State} (h : busRead off s = .next r) :
    r.2.hostVars = s.hostVars := by
  rcases busRead_cases h with e | e <;> rw [e]

theorem hostRead_of_busRead {off : BitVec 7} {s s' : State} {x : Word} (h : busRead off s = .next (x, s')) (t : Nat) :
    hostRead off t s = .next (setHostVar t x s') := by
  simp only [hostRead, h]

theorem hostBranch_not_taken {s : State} {t : Nat} {mask : Word} (h : hostVar s t &&& mask = 0) (l : Nat) :
    hostBranch t mask l s = .next (advanceHost s) := if_pos h

theorem hostBranch_taken {s : State} {t l n : Nat} {mask : Word} (h : hostVar s t &&& mask ≠ 0)
    (hl : findLabel l s.hostProg = some n) : hostBranch t mask l s = .next { s with hostPc := n } := by
  simp only [hostBranch, if_neg h, hl]

/-- Settles O47: each line's rule; a read leaves the host variables alone, so RD assigns the one it names. -/
theorem hostLinesDoTheirAccess : Obligations.HostLinesDoTheirAccess := by
  intro s
  refine ⟨fun _ _ => rfl, ?read, fun _ _ l h => hostBranch_not_taken h l, fun _ _ _ _ h hl => hostBranch_taken h hl,
    fun _ => rfl, rfl⟩
  case read =>
    intro r t x s' hread
    have hvars : s'.hostVars = s.hostVars := busRead_hostVars hread
    refine ⟨setHostVar t x s', hostRead_of_busRead hread t, hostVar_setHostVar_same t x s', ?_, rfl⟩
    intro t' ht
    rw [hostVar_setHostVar, if_neg ht, hostVar_congr hvars]

/-! ## Lines in a row -/

/-- Each step is the host's, under the eager schedule: no turn is left and the core is idle. The host's next lines are
`ops`, and others may follow them. -/
structure HostAt (s : State) (ops : List HostOp) : Prop where
  turns : s.turns = []
  seq : s.seq = .idle
  busy : s.busy = false
  lines : ops <+: s.hostProg.drop s.hostPc

/-- The host of a program `pre ++ ops ++ post` at the end of `pre` has the lines `ops` before it. -/
theorem HostAt.of_append {s : State} {pre ops post : List HostOp} (ht : s.turns = []) (hs : s.seq = .idle)
    (hb : s.busy = false) (hprog : s.hostProg = pre ++ ops ++ post) (hpc : s.hostPc = pre.length) : HostAt s ops where
  turns := ht
  seq := hs
  busy := hb
  lines := by simp [hprog, hpc]

/-- The step is the first of the host's next lines. -/
theorem HostAt.step_eq {s : State} {op : HostOp} {ops : List HostOp} (h : HostAt s (op :: ops)) :
    step s = hostOpStep op s := by
  have hline : s.hostProg[s.hostPc]? = some op := by
    obtain ⟨post, hpost⟩ := h.lines
    have hhead : (s.hostProg.drop s.hostPc)[0]? = some op := by rw [← hpost]; rfl
    rwa [List.getElem?_drop] at hhead
  simp only [step, scheduledStep, h.turns, eagerStep, h.seq, if_true, hostStep, hline]

/-- A line that moves the host on and starts no command leaves the host before its other lines. -/
theorem HostAt.advance {s u : State} {op : HostOp} {ops : List HostOp} (h : HostAt s (op :: ops))
    (hturns : u.turns = s.turns) (hseq : u.seq = s.seq) (hbusy : u.busy = s.busy) (hprog : u.hostProg = s.hostProg)
    (hpc : u.hostPc = s.hostPc + 1) : HostAt u ops where
  turns := hturns.trans h.turns
  seq := hseq.trans h.seq
  busy := hbusy.trans h.busy
  lines := by
    obtain ⟨post, hpost⟩ := h.lines
    refine ⟨post, ?_⟩
    rw [hprog, hpc, ← List.drop_drop, ← hpost]
    rfl

/-- A run begins with the first of the host's next lines. -/
theorem HostAt.run_succ {s u : State} {op : HostOp} {ops : List HostOp} (h : HostAt s (op :: ops))
    (hop : hostOpStep op s = .next u) (n : Nat) :
    Host.Core.run Sys2Proof.core (n + 1) s = Host.Core.run Sys2Proof.core n u := by
  have hstep : Sys2Proof.core.step s = .next u := h.step_eq.trans hop
  simp only [Host.Core.run, hstep]

/-! ## SETMSG -/

/-- A write to a register other than CMD starts no command and leaves the host and the schedule as they are (R55). -/
theorem Reg.assign_frame (r : Reg) (v : Word) (s : State) :
    (Reg.assign v s r).turns = s.turns ∧ (Reg.assign v s r).seq = s.seq ∧ (Reg.assign v s r).busy = s.busy ∧
    (Reg.assign v s r).hostProg = s.hostProg ∧ (Reg.assign v s r).hostPc = s.hostPc := by
  cases r <;> exact ⟨rfl, rfl, rfl, rfl, rfl⟩

/-- The state after writes to registers other than CMD while idle, one after the other. -/
def assignAll : List (Reg × Word) → State → State
  | [], s => s
  | w :: ws, s => assignAll ws (Reg.assign w.2 (advanceHost s) w.1)

/-- A host program of WR lines assigns its registers in order, one step each (R86). -/
theorem run_writes (ws : List (Reg × Word)) : ∀ s : State, (∀ w ∈ ws, w.1 ≠ .cmd) →
    HostAt s (ws.map fun w => .wr w.1 w.2) →
    Host.Core.run Sys2Proof.core ws.length s = .next (assignAll ws s) := by
  induction ws with
  | nil => intro s _ _; rfl
  | cons w ws ih =>
    intro s hcmd hat
    obtain ⟨hw, hws⟩ := List.forall_mem_cons.mp hcmd
    have hwrite : hostOpStep (.wr w.1 w.2) s = .next (Reg.assign w.2 (advanceHost s) w.1) :=
      busWrite_idle (s := advanceHost s) hat.busy hw w.2
    have hnext : HostAt (Reg.assign w.2 (advanceHost s) w.1) (ws.map fun w => .wr w.1 w.2) := by
      obtain ⟨hturns, hseq, hbusy, hprog, hpc⟩ := Reg.assign_frame w.1 w.2 (advanceHost s)
      exact hat.advance hturns hseq hbusy hprog hpc
    exact (hat.run_succ hwrite ws.length).trans (ih _ hws hnext)

/-- A 64-bit register both of whose halves were written holds the value they are halves of. -/
theorem setHi_setLo_halves (x y : BitVec 64) : setHi (setLo x (loHalf y)) (hiHalf y) = y := by
  rw [setHi, loHalf_setLo, hiHalf, loHalf, BitVec.extractLsb'_append_extractLsb'_eq_extractLsb' (by decide)]
  exact BitVec.extractLsb'_eq_self

/-- The masks of R55 leave the halves of an address of the address space as they are. -/
theorem halves_and_lowmask {width : Nat} {addr : BitVec 64} (h : addr.toNat < 2 ^ width) :
    loHalf addr &&& loHalf (lowmask width) = loHalf addr ∧ hiHalf addr &&& hiHalf (lowmask width) = hiHalf addr := by
  constructor
  · rw [loHalf, loHalf, ← BitVec.extractLsb'_and, and_lowmask_eq h]
  · rw [hiHalf, hiHalf, ← BitVec.extractLsb'_and, and_lowmask_eq h]

/-- The four writes of SETMSG (R87). -/
def setMsgWrites (addr len : BitVec 64) : List (Reg × Word) :=
  [(.msgAddrLo, loHalf addr), (.msgAddrHi, hiHalf addr), (.lenLo, loHalf len), (.lenHi, hiHalf len)]

theorem assignAll_setMsgWrites {s : State} {addr : BitVec 64} (haddr : addr.toNat < 2 ^ s.cfg.addrWidth)
    (len : BitVec 64) : assignAll (setMsgWrites addr len) s =
      { s with msgAddr := addr, len := len, hostPc := s.hostPc + 4 } := by
  obtain ⟨hlo, hhi⟩ := halves_and_lowmask haddr
  simp only [setMsgWrites, assignAll, Reg.assign, Reg.stored, advanceHost, hlo, hhi, setHi_setLo_halves]

/-- Settles O48: four writes in a row, each half of a register once. -/
theorem setMsgSetsTheOperands : Obligations.SetMsgSetsTheOperands := by
  intro s addr len pre post hturns hseq hbusy hprog hpc haddr
  have hat : HostAt s ((setMsgWrites addr len).map fun w => .wr w.1 w.2) :=
    HostAt.of_append hturns hseq hbusy hprog hpc
  rw [← assignAll_setMsgWrites haddr len]
  exact run_writes _ s (by simp [setMsgWrites]) hat

/-! ## WAIT -/

/-- Bit 0 of STATUS, the bit WAIT tests, is BUSY (R31, R53). -/
theorem statusWord_and_one (s : State) : statusWord s &&& 0x00000001 = if s.busy then 1 else 0 := by
  have hbit : (statusWord s).getLsbD 0 = s.busy := by
    rw [statusWord, BitVec.getLsbD_append]
    simp [bit]
  rw [← hbit]
  exact BitVec.and_one_eq_setWidth_ofBool_getLsbD.trans (by cases (statusWord s).getLsbD 0 <;> rfl)

/-- Settles O49: the label moves the host on, the read finds BUSY = 0, and the branch on it is not taken. -/
theorem waitFallsThroughWhenIdle : Obligations.WaitFallsThroughWhenIdle := by
  intro s label t pre post hturns hseq hbusy herr hprog hpc
  have hlabel : HostAt s (pseudoWait label t) := HostAt.of_append hturns hseq hbusy hprog hpc
  have hread := hlabel.advance (u := advanceHost s) rfl rfl rfl rfl rfl
  have hbranch := hread.advance (u := setHostVar t (statusWord s) (advanceHost (advanceHost s))) rfl rfl rfl rfl rfl
  have hstatus : busRead 0x04 (advanceHost (advanceHost s)) = .next (statusWord s, advanceHost (advanceHost s)) :=
    busRead_status (decide_eq_true herr)
  have hidle : hostVar (setHostVar t (statusWord s) (advanceHost (advanceHost s))) t &&& 0x00000001 = 0 := by
    rw [hostVar_setHostVar_same, statusWord_and_one, hbusy]
    rfl
  refine ⟨advanceHost (setHostVar t (statusWord s) (advanceHost (advanceHost s))), ?run, rfl,
    hostVar_setHostVar_same t _ _, rfl⟩
  case run =>
    rw [hlabel.run_succ rfl, hread.run_succ (hostRead_of_busRead hstatus t),
      hbranch.run_succ (hostBranch_not_taken hidle label)]
    rfl

end Sys2Proof.Machine
end

section
/-! PROOFS. The mixing functions bit by bit, their corner cases, and the equation of one round (spec/40_round_logic.md
R100 to R103, R109). -/

namespace Sys2Proof.Machine

/-! ## The mixing functions -/

/-- NOT is XOR with the all-ones word, the form in which the spec writes it (R9). -/
theorem not_eq_xor_allOnes_word (x : Word) : ~~~x = x ^^^ 0xFFFFFFFF :=
  (BitVec.xor_allOnes (x := x)).symm

/-- F takes each bit from `y` where `x` has a 1 and from `z` where it has a 0 (R100). -/
theorem getLsbD_mixF (x y z : Word) {n : Nat} (hn : n < 32) :
    (mixF x y z).getLsbD n = if x.getLsbD n then y.getLsbD n else z.getLsbD n := by
  rw [mixF, BitVec.getLsbD_or, BitVec.getLsbD_and, BitVec.getLsbD_and, BitVec.getLsbD_not, decide_eq_true hn]
  cases x.getLsbD n <;> simp

/-- G is F with `z` as the selector (R101). -/
theorem mixG_eq_mixF (x y z : Word) : mixG x y z = mixF z x y := by
  rw [mixG, mixF, BitVec.and_comm x, BitVec.and_comm y]

theorem getLsbD_mixH (x y z : Word) (n : Nat) :
    (mixH x y z).getLsbD n = (x.getLsbD n).xor ((y.getLsbD n).xor (z.getLsbD n)) := by
  rw [mixH, BitVec.getLsbD_xor, BitVec.getLsbD_xor, Bool.xor_assoc]

@[simp] theorem mixF_zero (y z : Word) : mixF 0#32 y z = z := by
  refine BitVec.eq_of_getLsbD_eq fun n hn => ?_
  rw [getLsbD_mixF _ _ _ hn, BitVec.getLsbD_zero, if_neg Bool.false_ne_true]

theorem mixF_allOnes (y z : Word) : mixF (BitVec.allOnes 32) y z = y := by
  refine BitVec.eq_of_getLsbD_eq fun n hn => ?_
  rw [getLsbD_mixF _ _ _ hn, BitVec.getLsbD_allOnes, decide_eq_true hn, if_pos rfl]

/-- Between two equal words F has nothing to select. -/
@[simp] theorem mixF_self (x : Word) : mixF x x x = x := by
  refine BitVec.eq_of_getLsbD_eq fun n hn => ?_
  rw [getLsbD_mixF _ _ _ hn, ite_self]

@[simp] theorem mixH_self (x z : Word) : mixH x x z = z := by
  rw [mixH, BitVec.xor_self, BitVec.zero_xor]

theorem mixI_allOnes (y z : Word) : mixI (BitVec.allOnes 32) y z = y ^^^ BitVec.allOnes 32 := by
  rw [mixI, BitVec.allOnes_or]

/-- Settles O50: F selects by its first word, so its corner cases follow bit by bit; G's are F's, and the examples are
computed. -/
theorem mixingFunctionsSelect : Obligations.MixingFunctionsSelect := by
  refine ⟨?definitions, ?bits, ?constantFirst, ?repeated, ?examples⟩
  case definitions =>
    intro x y z
    simp only [← not_eq_xor_allOnes_word]
    exact ⟨rfl, rfl, rfl, rfl⟩
  case bits =>
    intro x y z n hn
    refine ⟨getLsbD_mixF x y z hn, ?_, getLsbD_mixH x y z n⟩
    rw [mixG_eq_mixF, getLsbD_mixF z x y hn]
  case constantFirst => exact fun y z => ⟨mixF_zero y z, mixF_allOnes y z, mixI_allOnes y z⟩
  case repeated =>
    intro x y z
    rw [mixG_eq_mixF, mixG_eq_mixF]
    exact ⟨mixF_self x, mixF_zero x y, mixF_allOnes x y, mixH_self x z⟩
  case examples => decide

/-! ## One round -/

/-- A round reads of the block only the word its index selects. -/
theorem roundStep_congr_block {i : BitVec 6} {m m' : Block} (h : m.get (gIndex i) = m'.get (gIndex i)) (q : Quad) :
    roundStep i q m = roundStep i q m' := by
  rw [roundStep, roundStep, roundTemp, roundTemp, h]

/-- Settles O53: the equation is the definition's, and the example is computed on a block whose words are all the one
that round 0 reads. -/
theorem roundStepFollowsTheEquation : Obligations.RoundStepFollowsTheEquation := by
  refine ⟨fun i q m => ⟨rfl, rfl, rfl, rfl⟩, ?firstRound⟩
  case firstRound =>
    intro m hm
    have hword : m.get (gIndex 0) = (Vector.replicate 16 0x00000080 : Block).get (gIndex 0) := hm
    rw [roundStep_congr_block hword]
    decide

end Sys2Proof.Machine
end

section
/-! PROOFS. The compression function as a fold of its rounds, the core steps of a transform, and a TRANSFORM from the
taking of the command to its last step (spec/41_compression.md R130 to R138). -/

namespace Sys2Proof.Machine

/-! ## The compression function -/

/-- The rounds 0 to `n - 1`, applied in order (R130). -/
theorem runRounds_eq_foldl (m : Block) (q : Quad) (n : Nat) :
    runRounds m q n = (List.range n).foldl (fun q i => roundStep (BitVec.ofNat 6 i) q m) q := by
  induction n with
  | zero => rfl
  | succ n ih => rw [runRounds, ih, List.range_succ, List.foldl_append, List.foldl_cons, List.foldl_nil]

/-- Settles O54: the recursion over the rounds is the fold over their indices. -/
theorem compressIsSixtyFourRounds : Obligations.CompressIsSixtyFourRounds := by
  intro hin m
  rw [compress, runRounds_eq_foldl]

/-! ## The core steps of a transform -/

/-- The last round goes on to FEED and leaves `i` (R136). -/
theorem stepRound_last {s : State} (hi : s.i = 63) :
    stepRound s = { s with w := roundStep 63 s.w s.m, seq := .feed } := by
  rcases stepRound_cases s with ⟨-, e⟩ | ⟨hne, -⟩
  · rw [e, hi]
  · exact absurd hi hne

/-- Each other round stays in ROUND and counts `i` up (R136). -/
theorem stepRound_not_last {s : State} (hi : s.i ≠ 63) :
    stepRound s = { s with w := roundStep s.i s.w s.m, i := s.i + 1 } := by
  rcases stepRound_cases s with ⟨he, -⟩ | ⟨-, e⟩
  · exact absurd he hi
  · exact e

/-- FEED of a TRANSFORM ends the command (R137). -/
theorem stepFeed_xform {s : State} (hm : s.mode = .xform) : stepFeed s = endCommand { s with h := addQuad s.h s.w } := by
  rcases stepFeed_cases s with ⟨-, e⟩ | ⟨hhash, -⟩
  · exact e
  · simp [hm] at hhash

/-- FEED of a block of a HASH goes on to NEXT (R137). -/
theorem stepFeed_hash {s : State} (hm : s.mode = .hash) :
    stepFeed s = { s with h := addQuad s.h s.w, seq := .next } := by
  rcases stepFeed_cases s with ⟨hxform, -⟩ | ⟨-, e⟩
  · simp [hm] at hxform
  · exact e

/-- Settles O25, step by step: in the state that each step leaves, the fields it does not name are those of `s`. -/
theorem transformStepsWriteTheirRegisters : Obligations.TransformStepsWriteTheirRegisters := by
  refine ⟨fun s hs => ?xstart, fun s hs hi => ?lastRound, fun s hs hi => ?round, fun s hs hm => ?feedXform,
    fun s hs hm => ?feedHash⟩
  case xstart => rw [coreStep_xstart hs]; rfl
  case lastRound => rw [coreStep_round hs, stepRound_last hi]
  case round => rw [coreStep_round hs, stepRound_not_last hi]
  case feedXform => rw [coreStep_feed hs, stepFeed_xform hm]; rfl
  case feedHash => rw [coreStep_feed hs, stepFeed_hash hm]; rfl

/-! ## A block before its FEED, and 66 steps from XSTART -/

/-- The 64 rounds of a block write neither `H` nor `M` (R136). -/
theorem coreRun_rounds_h_m {s : State} (hs : s.seq = .round) (hi : s.i = 0) {k : Nat} (hk : k ≤ 64) :
    (coreRun k s).h = s.h ∧ (coreRun k s).m = s.m := by
  rcases Nat.lt_or_eq_of_le hk with hlt | rfl
  · rw [coreRun_rounds hs hi k (by omega)]
    exact ⟨rfl, rfl⟩
  · rw [coreRun_64_rounds hs hi]
    exact ⟨rfl, rfl⟩

/-- XSTART and the rounds after it write neither `H` nor `M` (R135, R136). -/
theorem coreRun_xstart_h_m {s : State} (hs : s.seq = .xstart) {k : Nat} (hk : k < 66) :
    (coreRun k s).h = s.h ∧ (coreRun k s).m = s.m := by
  cases k with
  | zero => exact ⟨rfl, rfl⟩
  | succ k =>
    rw [coreRun_succ, coreStep_xstart hs]
    exact coreRun_rounds_h_m (stepXstart_seq s) (stepXstart_i s) (by omega)

/-- XSTART, the 64 rounds and FEED, as one exact state (R138). -/
theorem coreRun_66_xstart {s : State} (hs : s.seq = .xstart) :
    coreRun 66 s = { s with
      h := compress s.h s.m, w := runRounds s.m s.h 64, i := 63, mode := .xform, busy := false, seq := .idle } :=
  coreRun_66_xform (coreStep_xstart hs) rfl

/-- Settles O17: the 66th step is the FEED of `coreRun_66_xstart`, and no step before it writes `H` or `M`. -/
theorem sixtySixStepsCompress : Obligations.SixtySixStepsCompress := by
  intro s hs
  refine ⟨by rw [coreRun_66_xstart hs], fun k hk => (coreRun_xstart_h_m hs hk).1, fun k hk => ?block⟩
  case block =>
    rcases Nat.lt_or_eq_of_le hk with hlt | rfl
    · exact (coreRun_xstart_h_m hs hlt).2
    · rw [coreRun_66_xstart hs]

/-! ## The command -/

/-- TRANSFORM taken while idle is started at XSTART (R133, R153). -/
theorem exec_transform_idle {s : State} (hb : s.busy = false) :
    exec .transform s = .next (startCommand .xstart s) := by
  rw [exec, execTransform, takeStart, hb, if_neg Bool.false_ne_true]

theorem hostSideKept_startCommand (q : Seq) (s : State) : HostSideKept s (startCommand q s) := by
  simp [HostSideKept]

/-- Settles O16: the started command is at XSTART with `H` and `M` as they were, and its 66 steps end in the state of
`coreRun_66_xstart`. -/
theorem transformCompressesTheBlock : Obligations.TransformCompressesTheBlock := by
  intro s hb
  have hhost : HostSideKept s (coreRun 66 (startCommand .xstart s)) :=
    hostSideKept_coreRun 66 (hostSideKept_startCommand .xstart s)
  refine ⟨startCommand .xstart s, exec_transform_idle hb, rfl, rfl, rfl, rfl, rfl, rfl, ?_⟩
  rw [coreRun_66_xstart (startCommand_seq .xstart s)] at hhost ⊢
  exact ⟨rfl, rfl, rfl, rfl, rfl, rfl, ⟨rfl, rfl, rfl, rfl⟩, hhost, rfl⟩

end Sys2Proof.Machine
end

section
/-! PROOFS. Taking a command, the commands of one core step, and the driver's core steps HSTART and NEXT
(spec/42_driver.md R151 to R154, R170 to R174). -/

namespace Sys2Proof.Machine

/-! ## Taking a command -/

theorem messageInRange_iff (s : State) :
    messageInRange s = true ↔ s.msgAddr.toNat + s.len.toNat ≤ 2 ^ s.cfg.addrWidth := by
  simp [messageInRange]

theorem exec_nop_idle {s : State} (hb : s.busy = false) : exec .nop s = .next (startCommand .nop1 s) := by
  rw [exec, execNop, takeStart, hb, if_neg Bool.false_ne_true]

theorem exec_init_idle {s : State} (hb : s.busy = false) : exec .init s = .next (startCommand .init1 s) := by
  rw [exec, execInit, takeStart, hb, if_neg Bool.false_ne_true]

/-- HASH taken while idle is started at HSTART if its message lies in the address space (R153, R154). -/
theorem exec_hash_inRange {s : State} (hb : s.busy = false)
    (hr : s.msgAddr.toNat + s.len.toNat ≤ 2 ^ s.cfg.addrWidth) : exec .hash s = .next (startCommand .hstart s) := by
  rw [exec, execHash, hb, if_neg Bool.false_ne_true, if_pos ((messageInRange_iff s).mpr hr)]

/-- HASH taken while idle is rejected if its message does not lie in the address space (R194). -/
theorem exec_hash_outOfRange {s : State} (hb : s.busy = false)
    (hr : 2 ^ s.cfg.addrWidth < s.msgAddr.toNat + s.len.toNat) : exec .hash s = .next (rejectCommand errRange s) := by
  rw [exec, execHash, hb, if_neg Bool.false_ne_true, if_neg (by rw [messageInRange_iff]; omega)]

theorem takeCommand_ok {v : Word} {i : Instr} (h : decode v = .ok i) (s : State) : takeCommand v s = exec i s := by
  simp only [takeCommand, h]

theorem takeCommand_illegal {v : Word} (h : ∀ i, decode v ≠ .ok i) (s : State) :
    takeCommand v s = .next (rejectCommand errIllegalCmd s) := by
  unfold takeCommand
  split
  · rfl
  · exact absurd ‹_› (h _)

/-- Settles O9: the check of BUSY, then the word's decoding, then HASH's range; the states are those of `dropWrite`,
`rejectCommand` and `startCommand`, written out. -/
theorem cmdWriteTakesTheCommand : Obligations.CmdWriteTakesTheCommand := by
  intro s v
  have hcmd (hb : s.busy = false) : busWrite 0x00 v s = takeCommand v s := busWrite_cmd hb v
  refine ⟨fun hb => busWrite_busy hb _ v, fun hb hill => ?illegal, fun hb hd hr => ?range, fun hb hd hr => ?hash,
    fun hb hd => ?nop, fun hb hd => ?init, fun hb hd => ?transform⟩
  case illegal => rw [hcmd hb, takeCommand_illegal hill]; rfl
  case range => rw [hcmd hb, takeCommand_ok hd, exec_hash_outOfRange hb hr]; rfl
  case hash => rw [hcmd hb, takeCommand_ok hd, exec_hash_inRange hb hr]; rfl
  case nop => rw [hcmd hb, takeCommand_ok hd, exec_nop_idle hb]; rfl
  case init => rw [hcmd hb, takeCommand_ok hd, exec_init_idle hb]; rfl
  case transform => rw [hcmd hb, takeCommand_ok hd, exec_transform_idle hb]; rfl

/-- Taking a command writes STATUS, `seq` and the mark of the message duty alone, and `seq` only if it starts the
command (R153, R192, R194, R56). -/
theorem exec_writes {i : Instr} {s t : State} (h : exec i s = .next t) :
    t = { s with busy := t.busy, err := t.err, bwerr := t.bwerr, seq := t.seq, msgDisturbed := t.msgDisturbed } ∧
    (t.seq = s.seq ∨ (s.busy = false ∧ t.busy = true ∧ t.err = 0 ∧ t.bwerr = false)) := by
  rcases exec_cases h with ⟨-, rfl⟩ | ⟨hb, q, -, -, -, -, -, rfl⟩ | ⟨-, -, -, rfl⟩
  · exact ⟨rfl, .inl rfl⟩
  · exact ⟨rfl, .inr ⟨hb, rfl, rfl, rfl⟩⟩
  · exact ⟨rfl, .inl rfl⟩

/-- Settles O12: every other field is read off the state of `exec_writes`. -/
theorem takingWritesOnlyStatusAndSequencer : Obligations.TakingWritesOnlyStatusAndSequencer := by
  intro i s t h
  obtain ⟨hwrites, hseq⟩ := exec_writes h
  obtain ⟨hmem, hcfg⟩ := exec_memory h
  refine ⟨?_, ?_, ?_, ?_, ?_, ⟨?_, ?_, ?_, ?_⟩, ⟨?_, ?_, ?_, ?_, ?_, ?_, ?_, ?_, ?_⟩, ?_, memRead_congr hmem hcfg, hseq⟩
  all_goals rw [hwrites]

/-! ## The commands of one core step, and IDLE -/

/-- Settles O14: the step of NOP1 after `startCommand`. -/
theorem nopClearsStatus : Obligations.NopClearsStatus := by
  intro s hb
  refine ⟨startCommand .nop1 s, exec_nop_idle hb, rfl, rfl, ?_⟩
  rw [coreStep_nop1 (startCommand_seq .nop1 s)]
  exact ⟨rfl, by simp [statusWord, bit, errNone]⟩

/-- Settles O15: the step of INIT1 after `startCommand`. -/
theorem initLoadsTheInitialValue : Obligations.InitLoadsTheInitialValue := by
  intro s hb
  refine ⟨startCommand .init1 s, exec_init_idle hb, rfl, rfl, rfl, ?_⟩
  rw [coreStep_init1 (startCommand_seq .init1 s)]
  rfl

/-- Settles O24: the definitions of the two steps, with `endCommand` and IV written out. -/
theorem oneStepCommandsEnd : Obligations.OneStepCommandsEnd :=
  ⟨fun _ hs => coreStep_nop1 hs, fun _ hs => coreStep_init1 hs⟩

/-- Settles O23, by induction on the number of steps. -/
theorem idleCoreTakesNoStep : Obligations.IdleCoreTakesNoStep := by
  intro s hs n
  induction n with
  | zero => rfl
  | succ n ih => rw [coreRun_succ, coreStep_idle hs, ih]

/-! ## HSTART -/

/-- `lowmask` keeps the low bits of an address (R37, R55). -/
theorem toNat_and_lowmask {width : Nat} (hw : width ≤ 64) (x : BitVec 64) :
    (x &&& lowmask width).toNat = x.toNat % 2 ^ width := by
  have hpow : 2 ^ width ≤ 2 ^ 64 := Nat.pow_le_pow_right (by decide) hw
  have hpos : 0 < 2 ^ width := Nat.two_pow_pos width
  have hmask : (lowmask width).toNat = 2 ^ width - 1 := by
    rw [lowmask, BitVec.toNat_ofNat, Nat.mod_eq_of_lt (by omega)]
  rw [BitVec.toNat_and, hmask, Nat.and_two_pow_sub_one_eq_mod]

/-- Settles O26: the mask of a legal ADDR_WIDTH keeps MSG_ADDR's low bits. -/
theorem hstartLatchesTheMessage : Obligations.HstartLatchesTheMessage := by
  intro s hs hcfg
  have hwidth : s.cfg.addrWidth ≤ 64 := by
    simp only [Config.wf, Bool.and_eq_true, decide_eq_true_eq] at hcfg
    exact hcfg.1.2
  rw [coreStep_hstart hs]
  exact ⟨toNat_and_lowmask hwidth s.msgAddr, rfl⟩

/-! ## NEXT -/

/-- The first final block of at most 55 bytes: the marker, zeros up to the length field, and the length field (R158). -/
theorem putLength_markerBlock {tail : List Byte} (h : tail.length ≤ 55) (lenf : List Byte) :
    putLength (markerBlock tail) lenf = (tail ++ 0x80 :: zeros (55 - tail.length)) ++ lenf := by
  have hzeros : zeros (63 - tail.length) = zeros (55 - tail.length) ++ zeros 8 := by
    rw [zeros, zeros, zeros, ← List.replicate_add]
    congr 1
    omega
  have hsplit : markerBlock tail = (tail ++ 0x80 :: zeros (55 - tail.length)) ++ zeros 8 := by
    rw [markerBlock, hzeros, List.append_assoc, List.cons_append]
  have hlen : 56 = (tail ++ 0x80 :: zeros (55 - tail.length)).length := by
    simp only [zeros, List.length_append, List.length_cons, List.length_replicate]
    omega
  rw [putLength, hsplit, hlen, List.take_left]

/-- NEXT on a full block that is readable (R174, first case). -/
theorem stepNext_full {s : State} (hp : s.phase = .data) (hrem : 64 ≤ s.mlen.toNat - s.off.toNat) {bs : List Byte}
    (hread : readBytes s (s.mbase.toNat + s.off.toNat) 64 = some bs) :
    stepNext s = startBlock { s with m := words bs, off := s.off + 64 } := by
  simp only [stepNext, hp, if_pos hrem, nextFull, hread]

/-- NEXT on a readable first final block with room for the length field (R174, second case). -/
theorem stepNext_final {s : State} (hp : s.phase = .data) (hrem : s.mlen.toNat - s.off.toNat ≤ 55) {bs : List Byte}
    (hread : readBytes s (s.mbase.toNat + s.off.toNat) (s.mlen.toNat - s.off.toNat) = some bs) :
    stepNext s = startBlock { s with
      m := words (putLength (markerBlock bs) (lengthField s.mlen.toNat)), phase := .last
      off := s.mlen.setWidth 65 } := by
  simp only [stepNext, hp, if_neg (show ¬ 64 ≤ s.mlen.toNat - s.off.toNat by omega), nextFinal, hread, if_pos hrem]

/-- NEXT on a readable first final block without room for the length field (R174, second case). -/
theorem stepNext_marker {s : State} (hp : s.phase = .data) (hlo : 56 ≤ s.mlen.toNat - s.off.toNat)
    (hhi : s.mlen.toNat - s.off.toNat < 64) {bs : List Byte}
    (hread : readBytes s (s.mbase.toNat + s.off.toNat) (s.mlen.toNat - s.off.toNat) = some bs) :
    stepNext s = startBlock { s with m := words (markerBlock bs), phase := .extra, off := s.mlen.setWidth 65 } := by
  simp only [stepNext, hp, if_neg (Nat.not_le.mpr hhi), nextFinal, hread, if_neg (Nat.not_le.mpr hlo)]

theorem stepNext_extra {s : State} (hp : s.phase = .extra) : stepNext s = nextExtra s := by
  simp only [stepNext, hp]

/-- NEXT with all blocks done and the message duty kept (R174, fourth case). -/
theorem stepNext_last {s : State} (hp : s.phase = .last) (hduty : s.msgDisturbed = false) :
    stepNext s = endCommand s := by
  simp only [stepNext, hp, nextDone, hduty, if_neg Bool.false_ne_true]

/-- The length field of a length held in a register: the product is taken modulo 2^64 (R159). -/
theorem lengthField_toNat (x : BitVec 64) : lengthField x.toNat = bytesLE64 (8 * x) := by
  have hmul : BitVec.ofNat 64 (8 * x.toNat) = 8 * x := by
    apply BitVec.eq_of_toNat_eq
    rw [BitVec.toNat_ofNat, BitVec.toNat_mul]
    rfl
  rw [lengthField, hmul]

/-- Settles O27, case by case of R174, with the padding of each block written out. -/
theorem nextStepIteratesTheBlocks : Obligations.NextStepIteratesTheBlocks := by
  intro s hs _
  rw [coreStep_next hs]
  refine ⟨fun hp hrem bs hread => stepNext_full hp hrem hread, fun hp hrem bs hread => ?final,
    fun hp hlo hhi bs hread => stepNext_marker hp hlo hhi hread, fun hp => ?extra, fun hp hduty => stepNext_last hp hduty⟩
  case final =>
    have hlen : bs.length ≤ 55 := by rw [readBytes_length _ hread]; exact hrem
    rw [stepNext_final hp hrem hread, putLength_markerBlock hlen, lengthField_toNat]
    rfl
  case extra => rw [stepNext_extra hp, nextExtra, lengthField_toNat]; rfl

end Sys2Proof.Machine
end

section
/-! PROOFS. The length field and the last block, the digest as a fold over the padded message, and the digest's bytes
(spec/42_driver.md R155 to R165). -/

namespace Sys2Proof.Machine

/-! ## The length field and the last block -/

@[simp] theorem zeros_length (n : Nat) : (zeros n).length = n := List.length_replicate

theorem zeros_add (m n : Nat) : zeros (m + n) = zeros m ++ zeros n := by simp only [zeros, List.replicate_add]

@[simp] theorem lengthField_length (l : Nat) : (lengthField l).length = 8 := rfl

/-- The eight bytes of a 64-bit value are those of its low word and then those of its high word (R12). -/
theorem bytesLE64_eq_wordBytes (x : BitVec 64) : bytesLE64 x = wordBytes (loHalf x) ++ wordBytes (hiHalf x) := by
  have hlo (k : Nat) (hk : k < 4) : byteOf (loHalf x) k = x.extractLsb' (8 * k) 8 :=
    BitVec.extractLsb'_extractLsb'_of_le (by omega)
  have hhi (k : Nat) (hk : k < 4) : byteOf (hiHalf x) k = x.extractLsb' (32 + 8 * k) 8 := by
    apply BitVec.eq_of_getLsbD_eq
    intro i hi
    have hin : 8 * k + i < 32 := by omega
    simp [byteOf, hiHalf, hi, hin, Nat.add_assoc]
  simp only [wordBytes, hlo, hhi, Nat.reduceLT]
  rfl

/-- The length field holds the low 64 bits of the bit length, low half first (R159). -/
theorem lengthField_eq_wordBytes (l : Nat) :
    lengthField l = wordBytes (BitVec.ofNat 32 (8 * l)) ++ wordBytes (BitVec.ofNat 32 (8 * l / 2 ^ 32)) := by
  have hlo : loHalf (BitVec.ofNat 64 (8 * l)) = BitVec.ofNat 32 (8 * l) := by
    apply BitVec.eq_of_toNat_eq
    simp only [loHalf, BitVec.extractLsb'_toNat, BitVec.toNat_ofNat, Nat.shiftRight_zero]
    omega
  have hhi : hiHalf (BitVec.ofNat 64 (8 * l)) = BitVec.ofNat 32 (8 * l / 2 ^ 32) := by
    apply BitVec.eq_of_toNat_eq
    simp only [hiHalf, BitVec.extractLsb'_toNat, BitVec.toNat_ofNat, Nat.shiftRight_eq_div_pow]
    omega
  rw [lengthField, bytesLE64_eq_wordBytes, hlo, hhi]

theorem wordBytes_getElem? (v : Word) (k : Fin 4) : (wordBytes v)[k.val]? = some (byteOf v k.val) := by
  match k with
  | 0 | 1 | 2 | 3 => rfl

/-- A word of a block is known by its four bytes (R24). -/
theorem words_get_of_bytes {blk : List Byte} {n : Fin 16} {v : Word}
    (h : ∀ k : Fin 4, blk.getD (4 * n.val + k.val) 0 = byteOf v k.val) : (words blk).get n = v := by
  have hbyte0 : blk.getD (4 * n.val) 0 = byteOf v 0 := h 0
  have hbyte1 : blk.getD (4 * n.val + 1) 0 = byteOf v 1 := h 1
  have hbyte2 : blk.getD (4 * n.val + 2) 0 = byteOf v 2 := h 2
  have hbyte3 : blk.getD (4 * n.val + 3) 0 = byteOf v 3 := h 3
  rw [words_get, hbyte0, hbyte1, hbyte2, hbyte3, le32_byteOf]

/-- A word's bytes at their place in a block make up that word of the block (R24). -/
theorem words_get_wordBytes {pre : List Byte} {n : Fin 16} (hpre : pre.length = 4 * n.val) (v : Word)
    (rest : List Byte) : (words (pre ++ (wordBytes v ++ rest))).get n = v := by
  apply words_get_of_bytes
  intro k
  have hk : k.val < (wordBytes v).length := k.isLt
  rw [List.getD_append_right _ _ _ _ (by omega), hpre, Nat.add_sub_cancel_left, List.getD_append _ _ _ _ hk,
    List.getD_eq_getElem?_getD, wordBytes_getElem?, Option.getD_some]

/-- The words before the length field are 0 in a second final block (R160). -/
theorem lengthBlock_get_zero (lenf : List Byte) {n : Fin 16} (hn : n.val < 14) :
    (words (lengthBlock lenf)).get n = 0 := by
  apply words_get_of_bytes
  intro k
  have hk : 4 * n.val + k.val < 56 := by omega
  rw [lengthBlock, List.getD_append _ _ _ _ (by rwa [zeros_length]), zeros, List.getD_replicate _ hk]
  simp [byteOf]

theorem messageTail_length (msg : List Byte) : (messageTail msg).length = msg.length % 64 := by
  rw [messageTail, List.length_drop]
  omega

theorem lastBlock_of_le {msg : List Byte} (h : msg.length % 64 ≤ 55) :
    lastBlock msg = words (putLength (markerBlock (messageTail msg)) (lengthField msg.length)) := by
  rw [lastBlock, if_neg (by omega)]

theorem lastBlock_of_ge {msg : List Byte} (h : 56 ≤ msg.length % 64) :
    lastBlock msg = words (lengthBlock (lengthField msg.length)) := by
  rw [lastBlock, if_pos h]

/-- The last block is 56 bytes and the length field (R158, R160). -/
theorem lastBlock_ends_with_lengthField (msg : List Byte) :
    ∃ pre : List Byte, pre.length = 56 ∧ lastBlock msg = words (pre ++ lengthField msg.length) := by
  rcases Nat.lt_or_ge (msg.length % 64) 56 with h | h
  · have htail : (messageTail msg).length ≤ 55 := by rw [messageTail_length]; omega
    refine ⟨messageTail msg ++ 0x80 :: zeros (55 - (messageTail msg).length), ?_, ?_⟩
    · rw [List.length_append, List.length_cons, zeros_length]
      omega
    · rw [lastBlock_of_le (by omega), putLength_markerBlock htail]
  · exact ⟨zeros 56, zeros_length 56, lastBlock_of_ge h⟩

/-- Settles O56: the length field fills words 14 and 15 of the last block, after 56 bytes that are 0 in the second final
block. -/
theorem lastBlockHoldsTheBitLength : Obligations.LastBlockHoldsTheBitLength := by
  intro msg
  obtain ⟨pre, hpre, hlast⟩ := lastBlock_ends_with_lengthField msg
  rw [hlast, lengthField_eq_wordBytes]
  refine ⟨words_get_wordBytes hpre _ _, ?high, fun h n hn => ?zero⟩
  case high =>
    have hlow : (pre ++ wordBytes (BitVec.ofNat 32 (8 * msg.length))).length = 4 * 15 := by
      rw [List.length_append, hpre]
      rfl
    have hword := words_get_wordBytes (n := 15) hlow (BitVec.ofNat 32 (8 * msg.length / 2 ^ 32)) []
    rwa [List.append_nil, List.append_assoc] at hword
  case zero =>
    rw [← lengthField_eq_wordBytes, ← hlast, lastBlock_of_ge h]
    exact lengthBlock_get_zero _ hn

/-! ## The padded message -/

/-- A full block reads no byte beyond its own 64 (R156). -/
theorem fullBlock_append {msg : List Byte} {n : Nat} (h : 64 * (n + 1) ≤ msg.length) (rest : List Byte) :
    fullBlock (msg ++ rest) n = fullBlock msg n := by
  rw [fullBlock, fullBlock, List.drop_append_of_le_length (by omega),
    List.take_append_of_le_length (by rw [List.length_drop]; omega)]

/-- The full blocks of a message are the first blocks of every longer one (R156). -/
theorem compressFull_append {msg : List Byte} {n : Nat} (h : 64 * n ≤ msg.length) (rest : List Byte) :
    compressFull (msg ++ rest) n = compressFull msg n := by
  induction n with
  | zero => rfl
  | succ n ih => rw [compressFull, compressFull, ih (by omega), fullBlock_append h]

/-- Full block `n` is what follows the first `64n` bytes, up to 64 bytes (R156). -/
theorem fullBlock_of_drop {msg blk rest : List Byte} {n : Nat} (h : msg.drop (64 * n) = blk ++ rest)
    (hblk : blk.length = 64) : fullBlock msg n = blk := by
  rw [fullBlock, h, ← hblk, List.take_left]

/-- After the full blocks, the padding starts with the leftover bytes (R157). -/
theorem drop_paddedMessage (msg : List Byte) : (paddedMessage msg).drop (64 * (msg.length / 64)) =
    messageTail msg ++ 0x80 :: zeros ((119 - msg.length % 64) % 64) ++ lengthField msg.length := by
  rw [paddedMessage, List.append_assoc, List.drop_append_of_le_length (by omega), messageTail, List.append_assoc]

theorem compressFull_paddedMessage (msg : List Byte) :
    compressFull (paddedMessage msg) (msg.length / 64) = compressFull msg (msg.length / 64) := by
  rw [paddedMessage, List.append_assoc, compressFull_append (by omega)]

/-- With room for the length field, one block is left after the full ones (R158). -/
theorem drop_paddedMessage_of_le {msg : List Byte} (h : msg.length % 64 ≤ 55) :
    (paddedMessage msg).drop (64 * (msg.length / 64)) =
      putLength (markerBlock (messageTail msg)) (lengthField msg.length) := by
  have hlen := messageTail_length msg
  rw [drop_paddedMessage, putLength_markerBlock (by omega), hlen,
    show (119 - msg.length % 64) % 64 = 55 - msg.length % 64 by omega]

/-- Without room for the length field, two blocks are left after the full ones (R158, R160). -/
theorem drop_paddedMessage_of_ge {msg : List Byte} (h : 56 ≤ msg.length % 64) :
    (paddedMessage msg).drop (64 * (msg.length / 64)) =
      markerBlock (messageTail msg) ++ lengthBlock (lengthField msg.length) := by
  rw [drop_paddedMessage, markerBlock, lengthBlock, messageTail_length,
    show (119 - msg.length % 64) % 64 = (63 - msg.length % 64) + 56 by omega, zeros_add]
  simp only [List.append_assoc, List.cons_append]

theorem markerBlock_length {tail : List Byte} (h : tail.length ≤ 63) : (markerBlock tail).length = 64 := by
  rw [markerBlock, List.length_append, List.length_cons, zeros_length]
  omega

theorem putLength_length {blk : List Byte} (h : blk.length = 64) (l : Nat) :
    (putLength blk (lengthField l)).length = 64 := by
  rw [putLength, List.length_append, List.length_take, h, lengthField_length]
  rfl

theorem lengthBlock_length (l : Nat) : (lengthBlock (lengthField l)).length = 64 := rfl

theorem blockCount_of_le {l : Nat} (h : l % 64 ≤ 55) : blockCount l = l / 64 + 1 := if_pos h

theorem blockCount_of_ge {l : Nat} (h : 56 ≤ l % 64) : blockCount l = l / 64 + 2 := if_neg (by omega)

/-- The padding makes the message as long as the blocks HASH compresses (R157 to R161). -/
theorem paddedMessage_length (msg : List Byte) : (paddedMessage msg).length = 64 * blockCount msg.length := by
  rw [paddedMessage, List.length_append, List.length_append, List.length_cons, zeros_length, lengthField_length]
  rcases Nat.lt_or_ge (msg.length % 64) 56 with h | h
  · rw [blockCount_of_le (by omega)]; omega
  · rw [blockCount_of_ge h]; omega

/-- `MD5` with room for the length field in the first final block (R158). -/
theorem md5_of_le {msg : List Byte} (h : msg.length % 64 ≤ 55) :
    md5 msg = compress (compressFull msg (msg.length / 64)) (lastBlock msg) := by
  rw [md5, if_neg (by omega), lastBlock_of_le h]

/-- `MD5` with a second final block (R158, R160). -/
theorem md5_of_ge {msg : List Byte} (h : 56 ≤ msg.length % 64) :
    md5 msg = compress (compress (compressFull msg (msg.length / 64)) (words (markerBlock (messageTail msg))))
      (lastBlock msg) := by
  rw [md5, if_pos h, lastBlock_of_ge h]

/-- Settles O57: the full blocks are the message's, and after them stand the one or two final blocks of `md5`. -/
theorem digestFoldsThePaddedMessage : Obligations.DigestFoldsThePaddedMessage := by
  intro msg
  refine ⟨paddedMessage_length msg, ?_⟩
  have htail := messageTail_length msg
  have hmarker : (markerBlock (messageTail msg)).length = 64 := markerBlock_length (by omega)
  rcases Nat.lt_or_ge (msg.length % 64) 56 with h | h
  · have hfinal : fullBlock (paddedMessage msg) (msg.length / 64) =
        putLength (markerBlock (messageTail msg)) (lengthField msg.length) :=
      fullBlock_of_drop (rest := []) (by rw [drop_paddedMessage_of_le (by omega), List.append_nil])
        (putLength_length hmarker _)
    rw [blockCount_of_le (by omega), md5_of_le (by omega), lastBlock_of_le (by omega), compressFull,
      compressFull_paddedMessage, hfinal]
  · have hdrop := drop_paddedMessage_of_ge h
    have hfirst : fullBlock (paddedMessage msg) (msg.length / 64) = markerBlock (messageTail msg) :=
      fullBlock_of_drop hdrop hmarker
    have hsecond : fullBlock (paddedMessage msg) (msg.length / 64 + 1) = lengthBlock (lengthField msg.length) :=
      fullBlock_of_drop (rest := []) (by
        rw [Nat.mul_add, ← List.drop_drop, hdrop, List.drop_left' hmarker, List.append_nil])
        (lengthBlock_length _)
    rw [blockCount_of_ge h, md5_of_ge h, lastBlock_of_ge h, compressFull, compressFull, compressFull_paddedMessage,
      hfirst, hsecond]

/-! ## The digest's bytes -/

/-- Byte `m` of the digest's word `k` (R165). -/
theorem digestBytes_getElem? (q : Quad) (k m : Fin 4) :
    (digestBytes q)[4 * k.val + m.val]? = (wordBytes (Quad.getWord q k))[m.val]? := by
  match k with
  | 0 | 1 | 2 | 3 =>
    match m with
    | 0 | 1 | 2 | 3 => rfl

/-- Settles O58: the byte is byte `m` of its word. -/
theorem digestBytesAreLittleEndian : Obligations.DigestBytesAreLittleEndian := by
  intro q
  refine ⟨rfl, fun k m => ?_⟩
  rw [digestBytes_getElem?, wordBytes_getElem?, byteOf]

end Sys2Proof.Machine
end

section
/-! PROOFS. How long the core runs: the exact number of steps of each command (spec/42_driver.md R177), the whole run of
a HASH (R154, R155, R173 to R177), and a bound on the run from every state of the invariant. -/

namespace Sys2Proof.Machine

/-! ## Runs of the core -/

/-- `n` core steps lead from `s` to `u`, and the core is not IDLE before the last of them. -/
def RunsTo (n : Nat) (s u : State) : Prop := coreRun n s = u ∧ ∀ k, k < n → (coreRun k s).seq ≠ .idle

theorem RunsTo.trans {m n : Nat} {s u v : State} (h₁ : RunsTo m s u) (h₂ : RunsTo n u v) : RunsTo (m + n) s v := by
  obtain ⟨rfl, hbusy₁⟩ := h₁
  obtain ⟨rfl, hbusy₂⟩ := h₂
  refine ⟨coreRun_add m n s, fun k hk => ?_⟩
  rcases Nat.lt_or_ge k m with hlt | hge
  · exact hbusy₁ k hlt
  · obtain ⟨j, rfl⟩ := Nat.exists_eq_add_of_le hge
    rw [coreRun_add]
    exact hbusy₂ j (by omega)

theorem RunsTo.step {s u : State} (hs : s.seq ≠ .idle) (h : coreStep s = u) : RunsTo 1 s u :=
  ⟨h, fun k hk => by rwa [Nat.lt_one_iff.mp hk]⟩

/-! ## The blocks of a HASH -/

/-- `u` is the HASH started in `t` at its NEXT step, in phase `p` with the bytes below `off` done and the state `h`.
Besides the sequencer's registers, only the working registers, `i` and the block buffer may differ from `t`'s. -/
def AtNext (t : State) (p : Phase) (off : BitVec 65) (h : Quad) (u : State) : Prop :=
  ∃ w m i, u = { t with
    mode := .hash, mbase := t.msgAddr &&& lowmask t.cfg.addrWidth, mlen := t.len, off := off, phase := p, h := h
    w := w, m := m, i := i, seq := .next }

/-- HSTART leads to NEXT with no byte done and IV in `H` (R173). -/
theorem runsTo_hstart {t : State} (hs : t.seq = .hstart) : ∃ u, RunsTo 1 t u ∧ AtNext t .data 0 iv u :=
  ⟨_, .step (by simp [hs]) (coreStep_hstart hs), t.w, t.m, t.i, rfl⟩

/-- A NEXT step that starts the block `m`, and the 65 steps that compress it and lead to NEXT again (R174, R136, R137). -/
theorem AtNext.runsTo_block {t u : State} {p p' : Phase} {off off' : BitVec 65} {h : Quad} {m : Block}
    (hu : AtNext t p off h u) (hc : stepNext u = startBlock { u with m := m, phase := p', off := off' }) :
    ∃ v, RunsTo 66 u v ∧ AtNext t p' off' (compress h m) v ∧ v.m = m := by
  obtain ⟨w, m₀, i, rfl⟩ := hu
  rw [← coreStep_next rfl] at hc
  refine ⟨_, ⟨coreRun_66_hash hc rfl, coreRun_66_busy (by simp) hc⟩, ⟨_, m, _, rfl⟩, rfl⟩

/-- The message that the registers of `t` name lies in the address space and reads as `msg` (R153, R175). -/
def HoldsMessage (t : State) (msg : List Byte) : Prop :=
  t.msgAddr.toNat + t.len.toNat ≤ 2 ^ t.cfg.addrWidth ∧ readBytes t t.msgAddr.toNat t.len.toNat = some msg

theorem HoldsMessage.length {t : State} {msg : List Byte} (hmsg : HoldsMessage t msg) : msg.length = t.len.toNat :=
  readBytes_length _ hmsg.2

theorem HoldsMessage.startCommand {s : State} {msg : List Byte} (hmsg : HoldsMessage s msg) (q : Seq) :
    HoldsMessage (startCommand q s) msg :=
  ⟨hmsg.1, hmsg.2 ▸ readBytes_congr _ _ fun _ _ => memRead_congr rfl rfl _⟩

/-- What a NEXT step reads of the message. The latched address is MSG_ADDR, but for an empty message, which may stand at
the end of the address space: of that one nothing is read (R173, R175). -/
theorem HoldsMessage.read {t : State} {msg : List Byte} (hmsg : HoldsMessage t msg) {a n : Nat}
    (han : a + n ≤ msg.length) :
    readBytes t ((t.msgAddr &&& lowmask t.cfg.addrWidth).toNat + a) n = some ((msg.drop a).take n) := by
  rw [hmsg.length] at han
  obtain ⟨hrange, hread⟩ := hmsg
  cases n with
  | zero => rfl
  | succ n =>
    rw [and_lowmask_eq (by omega)]
    exact readBytes_slice hread han

theorem AtNext.read {t u : State} {msg : List Byte} {p : Phase} {off : BitVec 65} {h : Quad} (hmsg : HoldsMessage t msg)
    (hu : AtNext t p off h u) {n : Nat} (hn : off.toNat + n ≤ msg.length) :
    readBytes u (u.mbase.toNat + u.off.toNat) n = some ((msg.drop off.toNat).take n) := by
  obtain ⟨w, m, i, rfl⟩ := hu
  rw [← hmsg.read hn]
  exact readBytes_congr _ _ fun _ _ => memRead_congr rfl rfl _

section
variable {t : State} {msg : List Byte} (hmsg : HoldsMessage t msg)
include hmsg

/-- An offset of full blocks within the message fits the 65 bits of `off` (R37). -/
theorem HoldsMessage.toNat_off {n : Nat} (hn : 64 * n ≤ msg.length) : (BitVec.ofNat 65 (64 * n)).toNat = 64 * n := by
  have hlen := hmsg.length
  have hlt := t.len.isLt
  rw [BitVec.toNat_ofNat]
  omega

/-- HSTART and the full blocks 0 to `n - 1` (R156, R174). -/
theorem HoldsMessage.runsTo_full_blocks (hs : t.seq = .hstart) {n : Nat} (hn : 64 * n ≤ msg.length) :
    ∃ u, RunsTo (1 + 66 * n) t u ∧ AtNext t .data (BitVec.ofNat 65 (64 * n)) (compressFull msg n) u := by
  induction n with
  | zero => exact runsTo_hstart hs
  | succ n ih =>
    obtain ⟨u, hrun, hu⟩ := ih (by omega)
    have hoff := hmsg.toNat_off (n := n) (by omega)
    have hlen := hmsg.length
    have hread := hu.read hmsg (n := 64) (by omega)
    have hnext : stepNext u = startBlock { u with
        m := words (fullBlock msg n), phase := .data, off := BitVec.ofNat 65 (64 * (n + 1)) } := by
      obtain ⟨w, m, i, rfl⟩ := hu
      rw [stepNext_full rfl (by dsimp only; omega) hread, hoff, Nat.mul_succ, BitVec.ofNat_add]
      rfl
    obtain ⟨v, hblock, hv, -⟩ := hu.runsTo_block hnext
    exact ⟨v, hrun.trans hblock, hv⟩

/-- The leftover bytes are what NEXT reads after the full blocks (R157). -/
theorem HoldsMessage.read_tail {h : Quad} {u : State}
    (hu : AtNext t .data (BitVec.ofNat 65 (64 * (msg.length / 64))) h u) :
    u.mlen.toNat - u.off.toNat = msg.length % 64 ∧
    readBytes u (u.mbase.toNat + u.off.toNat) (u.mlen.toNat - u.off.toNat) = some (messageTail msg) := by
  have hoff := hmsg.toNat_off (n := msg.length / 64) (by omega)
  have hrem : u.mlen.toNat - u.off.toNat = msg.length % 64 := by
    have hlen := hmsg.length
    obtain ⟨w, m, i, rfl⟩ := hu
    dsimp only
    omega
  refine ⟨hrem, ?_⟩
  rw [hrem, hu.read hmsg (by omega), hoff, ← messageTail, List.take_of_length_le (messageTail_length msg).le]

/-- The one or two final blocks (R157 to R161, R174). -/
theorem HoldsMessage.runsTo_final_blocks {u : State}
    (hu : AtNext t .data (BitVec.ofNat 65 (64 * (msg.length / 64))) (compressFull msg (msg.length / 64)) u) :
    ∃ k v, msg.length / 64 + k = blockCount msg.length ∧ RunsTo (66 * k) u v ∧
      AtNext t .last (t.len.setWidth 65) (md5 msg) v ∧ v.m = lastBlock msg := by
  obtain ⟨hrem, hread⟩ := hmsg.read_tail hu
  rcases Nat.lt_or_ge (msg.length % 64) 56 with h | h
  · have hfinal : stepNext u = startBlock { u with
        m := lastBlock msg, phase := .last, off := t.len.setWidth 65 } := by
      rw [lastBlock_of_le (by omega), hmsg.length]
      obtain ⟨w, m, i, rfl⟩ := hu
      exact stepNext_final rfl (by omega) hread
    obtain ⟨v, hrun, hv⟩ := hu.runsTo_block hfinal
    rw [← md5_of_le (by omega)] at hv
    exact ⟨1, v, (blockCount_of_le (by omega)).symm, hrun, hv⟩
  · have hmarker : stepNext u = startBlock { u with
        m := words (markerBlock (messageTail msg)), phase := .extra, off := t.len.setWidth 65 } := by
      obtain ⟨w, m, i, rfl⟩ := hu
      exact stepNext_marker rfl (by omega) (by omega) hread
    obtain ⟨v, hrun, hv, -⟩ := hu.runsTo_block hmarker
    have hextra : stepNext v = startBlock { v with
        m := lastBlock msg, phase := .last, off := t.len.setWidth 65 } := by
      rw [lastBlock_of_ge h, hmsg.length]
      obtain ⟨w, m, i, rfl⟩ := hv
      exact stepNext_extra rfl
    obtain ⟨x, hrun', hx⟩ := hv.runsTo_block hextra
    rw [← md5_of_ge h] at hx
    exact ⟨2, x, (blockCount_of_ge h).symm, hrun.trans hrun', hx⟩

/-- A HASH up to the last of its core steps: all blocks are done, `H` is the digest and `M` the last block (R155). -/
theorem HoldsMessage.runsTo_last (hs : t.seq = .hstart) :
    ∃ u, RunsTo (1 + 66 * blockCount t.len.toNat) t u ∧ AtNext t .last (t.len.setWidth 65) (md5 msg) u ∧
      u.m = lastBlock msg := by
  obtain ⟨u, hfull, hu⟩ := hmsg.runsTo_full_blocks hs (n := msg.length / 64) (by omega)
  obtain ⟨k, v, hk, hfinal, hv⟩ := hmsg.runsTo_final_blocks hu
  refine ⟨v, ?_, hv⟩
  rw [← hmsg.length, ← hk, Nat.mul_add, ← Nat.add_assoc]
  exact hfull.trans hfinal

end

/-! ## The commands -/

/-- The last step of a HASH ends it, whatever became of the message duty (R174, U4). -/
theorem stepNext_last_seq {s : State} (hp : s.phase = .last) : (stepNext s).seq = .idle := by
  simp only [stepNext, hp, nextDone]
  split <;> rfl

/-- A HASH whose message is readable takes `2 + 66 * N(L)` core steps (R177). -/
theorem HoldsMessage.runsTo_end {t : State} {msg : List Byte} (hmsg : HoldsMessage t msg) (hs : t.seq = .hstart) :
    ∃ u, RunsTo (2 + 66 * blockCount t.len.toNat) t (stepNext u) ∧ (stepNext u).seq = .idle ∧
      AtNext t .last (t.len.setWidth 65) (md5 msg) u ∧ u.m = lastBlock msg := by
  obtain ⟨u, hrun, hu, hm⟩ := hmsg.runsTo_last hs
  refine ⟨u, ?_, ?_, hu, hm⟩
  · obtain ⟨w, m, i, rfl⟩ := hu
    rw [show 2 + 66 * blockCount t.len.toNat = 1 + 66 * blockCount t.len.toNat + 1 by omega]
    exact hrun.trans (.step (by simp) (coreStep_next rfl))
  · obtain ⟨w, m, i, rfl⟩ := hu
    exact stepNext_last_seq rfl

/-- Settles O18: the started HASH runs to its last step with the digest in `H`, and that step ends it, since no store not
visible yet touches the message. -/
theorem hashComputesTheDigest : Obligations.HashComputesTheDigest := by
  intro s msg hb hrange hread hvisible
  have hstale : staleMessage s = false := by
    rw [← Bool.not_eq_true, staleMessage_iff]
    rintro ⟨p, hp, hlo, hhi⟩
    have := hvisible p hp
    omega
  have hhost := hostSideKept_coreRun (2 + 66 * blockCount s.len.toNat) (hostSideKept_startCommand .hstart s)
  refine ⟨startCommand .hstart s, exec_hash_inRange hb hrange, rfl, rfl, rfl, rfl, ?_⟩
  have hmsg : HoldsMessage s msg := ⟨hrange, hread⟩
  obtain ⟨u, ⟨hrun, -⟩, -, hu, hm⟩ := (hmsg.startCommand .hstart).runsTo_end rfl
  have hduty : (startCommand .hstart s).msgDisturbed = false := startCommand_undisturbed (.inr hstale)
  have hend : stepNext u = endCommand u := by
    obtain ⟨w, m, i, rfl⟩ := hu
    exact stepNext_last rfl hduty
  rw [startCommand_len, hend] at hrun
  rw [hrun] at hhost ⊢
  obtain ⟨w, m, i, rfl⟩ := hu
  exact ⟨rfl, rfl, rfl, rfl, rfl, hm, hhost, rfl⟩

/-- Settles O20: the runs of `RunsTo`, whose number of steps is exact. -/
theorem commandsTakeTheirStepCount : Obligations.CommandsTakeTheirStepCount := by
  intro s hb
  refine ⟨fun t ht => ?nop, fun t ht => ?init, fun t ht => ?transform, fun t ht hrange hread => ?hash⟩
  case nop =>
    obtain rfl := Host.Outcome.next.inj ((exec_nop_idle hb).symm.trans ht)
    exact ⟨rfl, by simp⟩
  case init =>
    obtain rfl := Host.Outcome.next.inj ((exec_init_idle hb).symm.trans ht)
    exact ⟨rfl, by simp⟩
  case transform =>
    obtain rfl := Host.Outcome.next.inj ((exec_transform_idle hb).symm.trans ht)
    have hs : (startCommand .xstart s).seq = .xstart := rfl
    exact ⟨by rw [coreRun_66_xstart hs], coreRun_66_busy (by simp) (coreStep_xstart hs)⟩
  case hash =>
    obtain rfl := Host.Outcome.next.inj ((exec_hash_inRange hb hrange).symm.trans ht)
    obtain ⟨msg, hmsg⟩ := Option.ne_none_iff_exists'.mp hread
    have hholds : HoldsMessage s msg := ⟨hrange, hmsg⟩
    obtain ⟨u, ⟨hrun, hbusy⟩, hidle, -⟩ := (hholds.startCommand .hstart).runsTo_end rfl
    exact ⟨by rw [← startCommand_len .hstart s, hrun, hidle], hbusy⟩

/-! ## A bound from every state of the invariant -/

/-- The core is IDLE after at most `b` of its steps. -/
def EndsWithin (b : Nat) (s : State) : Prop := ∃ k, k ≤ b ∧ (coreRun k s).seq = .idle

theorem EndsWithin.mono {b b' : Nat} {s : State} (h : EndsWithin b s) (hb : b ≤ b') : EndsWithin b' s := by
  obtain ⟨k, hk, hidle⟩ := h
  exact ⟨k, hk.trans hb, hidle⟩

theorem EndsWithin.of_coreRun {a b : Nat} {s : State} (h : EndsWithin b (coreRun a s)) : EndsWithin (a + b) s := by
  obtain ⟨k, hk, hidle⟩ := h
  exact ⟨a + k, Nat.add_le_add_left hk a, by rwa [coreRun_add]⟩

theorem EndsWithin.of_step {s : State} (h : (coreStep s).seq = .idle) : EndsWithin 1 s := ⟨1, le_rfl, h⟩

theorem endsWithin_next_last {s : State} (hs : s.seq = .next) (hp : s.phase = .last) : EndsWithin 1 s :=
  .of_step (by rw [coreStep_next hs]; exact stepNext_last_seq hp)

/-- A NEXT step that starts a block of a HASH, and what is left to do once it is compressed (R174, R137). -/
theorem EndsWithin.of_block {b : Nat} {s v : State} (hs : s.seq = .next) (hc : stepNext s = startBlock v)
    (hm : v.mode = .hash) (h : EndsWithin b { v with
      h := compress v.h v.m, w := runRounds v.m v.h 64, i := 63, seq := .next }) : EndsWithin (66 + b) s :=
  .of_coreRun (by rwa [coreRun_66_hash ((coreStep_next hs).trans hc) hm])

/-- The second final block, and the NEXT step after it (R174). -/
theorem endsWithin_next_extra {s : State} (hs : s.seq = .next) (hm : s.mode = .hash) (hp : s.phase = .extra) :
    EndsWithin 67 s :=
  .of_block hs (stepNext_extra hp) hm (endsWithin_next_last rfl rfl)

/-- The full blocks of the bytes to go, at most two final blocks, and the step that ends the HASH; or a failed read
before (R174). -/
theorem endsWithin_next_data {s : State} (hs : s.seq = .next) (hm : s.mode = .hash) (hp : s.phase = .data) :
    EndsWithin (66 * ((s.mlen.toNat - s.off.toNat) / 64) + 133) s := by
  rcases stepNext_cases s with ⟨-, e⟩ | ⟨-, hrem, _, -, e⟩ | ⟨-, -, _, -, e⟩ | ⟨-, -, -, _, -, e⟩ | ⟨hp', -⟩ |
    ⟨hp', -⟩ | ⟨hp', -⟩
  · exact EndsWithin.mono (.of_step (by rw [coreStep_next hs, e]; rfl)) (by omega)
  · have hoff : (s.off + 64).toNat = s.off.toNat + 64 := by
      have hlt := s.mlen.isLt
      rw [BitVec.toNat_add]
      simp only [BitVec.reduceToNat]
      omega
    refine (EndsWithin.of_block hs e hm (endsWithin_next_data rfl hm hp)).mono ?_
    dsimp only
    omega
  · exact (EndsWithin.of_block hs e hm (endsWithin_next_last rfl rfl)).mono (by omega)
  · exact (EndsWithin.of_block hs e hm (endsWithin_next_extra rfl hm rfl)).mono (by omega)
  all_goals simp [hp] at hp'
termination_by s.mlen.toNat - s.off.toNat
decreasing_by omega

theorem endsWithin_next {s : State} {l : Nat} (hs : s.seq = .next) (hm : s.mode = .hash) (hl : s.mlen.toNat = l) :
    EndsWithin (66 * (l / 64) + 133) s := by
  cases hp : s.phase with
  | data => exact (endsWithin_next_data hs hm hp).mono (by omega)
  | extra => exact (endsWithin_next_extra hs hm hp).mono (by omega)
  | last => exact (endsWithin_next_last hs hp).mono (by omega)

theorem endsWithin_feed_xform {s : State} (hs : s.seq = .feed) (hm : s.mode = .xform) : EndsWithin 1 s :=
  .of_step (by rw [coreStep_feed hs, stepFeed_xform hm]; rfl)

theorem endsWithin_feed_hash {s : State} {l : Nat} (hs : s.seq = .feed) (hm : s.mode = .hash) (hl : s.mlen.toNat = l) :
    EndsWithin (66 * (l / 64) + 134) s := by
  have hstep : coreRun 1 s = { s with h := addQuad s.h s.w, seq := .next } :=
    (coreStep_feed hs).trans (stepFeed_hash hm)
  have hnext : EndsWithin (66 * (l / 64) + 133) (coreRun 1 s) := by
    rw [hstep]
    exact endsWithin_next rfl hm hl
  exact hnext.of_coreRun.mono (by omega)

/-- From any round, the rounds that are left lead to FEED (R136). -/
theorem coreRun_to_feed {n : Nat} : ∀ {s : State}, s.seq = .round → s.i.toNat + n = 63 →
    ∃ w, coreRun (n + 1) s = { s with w := w, i := 63, seq := .feed } := by
  induction n with
  | zero =>
    intro s hs hi
    have hlast : s.i = 63 := BitVec.eq_of_toNat_eq hi
    exact ⟨roundStep 63 s.w s.m, by rw [coreRun_succ, coreStep_round hs, stepRound_last hlast, coreRun_zero, ← hlast]⟩
  | succ n ih =>
    intro s hs hi
    have hnotLast : s.i ≠ 63 := by
      intro h
      simp [h] at hi
    have hnext : (s.i + 1).toNat + n = 63 := by
      rw [BitVec.toNat_add]
      simp only [BitVec.reduceToNat]
      omega
    obtain ⟨w, e⟩ := ih (s := { s with w := roundStep s.i s.w s.m, i := s.i + 1 }) hs hnext
    exact ⟨w, by rw [coreRun_succ, coreStep_round hs, stepRound_not_last hnotLast, e]⟩

/-- A block at any of its rounds, and what is left to do from its FEED (R136). -/
theorem EndsWithin.of_feed {b : Nat} {s : State} (hs : s.seq = .round)
    (h : ∀ w, EndsWithin b { s with w := w, i := 63, seq := .feed }) : EndsWithin (64 + b) s := by
  obtain ⟨w, e⟩ := coreRun_to_feed (n := 63 - s.i.toNat) hs (by omega)
  exact EndsWithin.mono (.of_coreRun (e ▸ h w)) (by omega)

theorem stateInv_coreRun (n : Nat) : ∀ {s : State}, StateInv s → StateInv (coreRun n s) := by
  induction n with
  | zero => exact id
  | succ n ih => exact fun hi => ih (stateInv_coreStep hi)

/-- In a state of the invariant, wherever the core stands, it is IDLE within the steps of four blocks more than LEN has in
full: at most 64 rounds and a FEED, the full blocks, two final blocks and the NEXT that ends the HASH (R177). -/
theorem StateInv.endsWithin {s : State} (hi : StateInv s) : EndsWithin (66 * (s.len.toNat / 64 + 4)) s := by
  have hmlen (hl : hashLatched s) : s.mlen.toNat = s.len.toNat := by rw [(hi.latches hl).length]
  cases hs : s.seq with
  | idle => exact ⟨0, Nat.zero_le _, hs⟩
  | nop1 => exact (EndsWithin.of_step (by rw [coreStep_nop1 hs]; rfl)).mono (by omega)
  | init1 => exact (EndsWithin.of_step (by rw [coreStep_init1 hs]; rfl)).mono (by omega)
  | xstart => exact ⟨66, by omega, by rw [coreRun_66_xstart hs]⟩
  | hstart =>
    have hnext : EndsWithin (66 * (s.len.toNat / 64) + 133) (coreRun 1 s) := by
      rw [coreRun_succ, coreRun_zero, coreStep_hstart hs]
      exact endsWithin_next rfl rfl rfl
    exact hnext.of_coreRun.mono (by omega)
  | next => exact (endsWithin_next hs (hi.nextMode hs) (hmlen (.inl hs))).mono (by omega)
  | round =>
    cases hm : s.mode with
    | xform => exact (EndsWithin.of_feed hs fun w => endsWithin_feed_xform rfl hm).mono (by omega)
    | hash =>
      have hlen := hmlen (.inr ⟨.inl hs, hm⟩)
      exact (EndsWithin.of_feed hs fun w => endsWithin_feed_hash rfl hm hlen).mono (by omega)
  | feed =>
    cases hm : s.mode with
    | xform => exact (endsWithin_feed_xform hs hm).mono (by omega)
    | hash => exact (endsWithin_feed_hash hs hm (hmlen (.inr ⟨.inr hs, hm⟩))).mono (by omega)

/-- Settles O21: the bound of `StateInv.endsWithin`; BUSY is 0 there because the invariant still holds. -/
theorem everyRunningCommandEnds : Obligations.EveryRunningCommandEnds := by
  intro s hi
  obtain ⟨k, hk, hidle⟩ := hi.endsWithin
  have hbusy := (stateInv_coreRun k hi).busyIffRunning
  exact ⟨k, hk, hidle, by simpa [hidle] using hbusy⟩

end Sys2Proof.Machine
end

section
/-! PROOFS. The errors: the rejected commands, the failed message read and the HASH that it ends, and who changes ERR
(spec/60_exceptions.md R191 to R194). -/

namespace Sys2Proof.Machine

/-! ## Rejected commands -/

/-- A word with a nonzero RSV or an OPC that R81 does not assign is no command's word (R82). -/
theorem decode_ne_ok_of_illegal {v : Word} (h : v.extractLsb 31 4 ≠ 0 ∨ 4 ≤ (v.extractLsb 3 0).toNat) (i : Instr) :
    decode v ≠ .ok i := by
  intro hd
  obtain rfl : v = encode i := decode_eq_ok_iff.mp hd
  cases i <;> exact absurd h (by decide)

/-- Settles O10: the word is rejected, and the rejection leaves `seq` at IDLE. -/
theorem illegalWordOnlySetsErr : Obligations.IllegalWordOnlySetsErr := by
  intro s v _ hill
  have htake : takeCommand v s = .next (rejectCommand errIllegalCmd s) :=
    takeCommand_illegal (decode_ne_ok_of_illegal hill) s
  refine ⟨htake, fun hs t ht => ?_⟩
  obtain rfl := Host.Outcome.next.inj (htake.symm.trans ht)
  exact coreStep_idle hs

/-- Settles O11: the command is rejected, and the rejection leaves `seq` at IDLE. -/
theorem hashOutOfRangeOnlySetsErr : Obligations.HashOutOfRangeOnlySetsErr := by
  intro s hb hrange
  have hexec := exec_hash_outOfRange hb hrange
  refine ⟨hexec, fun hs t ht => ?_⟩
  obtain rfl := Host.Outcome.next.inj (hexec.symm.trans ht)
  exact coreStep_idle hs

/-! ## The failed read -/

/-- NEXT when one of its reads fails (R193): in a full block, or in what is left of the message. -/
theorem stepNext_failed {s : State} (hp : s.phase = .data) (hread : nextBytes s = none) :
    stepNext s = raiseBusError s := by
  rw [nextBytes] at hread
  rcases Nat.lt_or_ge (s.mlen.toNat - s.off.toNat) 64 with hrem | hrem
  · rw [Nat.min_eq_right hrem.le] at hread
    simp only [stepNext, hp, if_neg (Nat.not_le.mpr hrem), nextFinal, hread]
  · rw [Nat.min_eq_left hrem] at hread
    simp only [stepNext, hp, if_pos hrem, nextFull, hread]

/-- NEXT when its reads succeed starts a block, of which ERR is no part (R174). -/
theorem stepNext_err_of_read {s : State} {bs : List Byte} (hp : s.phase = .data) (hread : nextBytes s = some bs) :
    (stepNext s).err = s.err := by
  rw [nextBytes] at hread
  rcases Nat.lt_or_ge (s.mlen.toNat - s.off.toNat) 64 with hrem | hrem
  · rw [Nat.min_eq_right hrem.le] at hread
    rcases Nat.lt_or_ge (s.mlen.toNat - s.off.toNat) 56 with hroom | hroom
    · rw [stepNext_final hp (Nat.le_of_lt_succ hroom) hread]; rfl
    · rw [stepNext_marker hp hroom hrem hread]; rfl
  · rw [Nat.min_eq_left hrem] at hread
    rw [stepNext_full hp hrem hread]; rfl

/-- Settles O28: the state of `raiseBusError`, written out. -/
theorem failedReadEndsTheCommand : Obligations.FailedReadEndsTheCommand := by
  intro s hs hp hread
  rw [coreStep_next hs, stepNext_failed hp hread]
  rfl

/-! ## Who changes ERR -/

theorem stepNext_err_cases (s : State) :
    (stepNext s).err = s.err ∨ (s.phase = .data ∧ nextBytes s = none ∧ stepNext s = raiseBusError s) := by
  cases hp : s.phase with
  | data =>
    cases hread : nextBytes s with
    | none => exact .inr ⟨rfl, rfl, stepNext_failed hp hread⟩
    | some bs => exact .inl (stepNext_err_of_read hp hread)
  | extra => exact .inl (by rw [stepNext_extra hp, nextExtra_err])
  | last =>
    simp only [stepNext, hp, nextDone]
    split <;> exact .inl rfl

/-- No core step but a failed NEXT writes ERR (R191, R193). -/
theorem coreStep_err_cases (s : State) : (coreStep s).err = s.err ∨
    (s.seq = .next ∧ s.phase = .data ∧ nextBytes s = none ∧ coreStep s = raiseBusError s) := by
  cases hs : s.seq with
  | idle => exact .inl (by rw [coreStep_idle hs])
  | nop1 => exact .inl (by rw [coreStep_nop1 hs, stepNop1_err])
  | init1 => exact .inl (by rw [coreStep_init1 hs, stepInit1_err])
  | xstart => exact .inl (by rw [coreStep_xstart hs, stepXstart_err])
  | hstart => exact .inl (by rw [coreStep_hstart hs, stepHstart_err])
  | round => rw [coreStep_round hs]; rcases stepRound_cases s with ⟨-, e⟩ | ⟨-, e⟩ <;> exact .inl (by rw [e])
  | feed => rw [coreStep_feed hs]; rcases stepFeed_cases s with ⟨-, e⟩ | ⟨-, e⟩ <;> exact .inl (by simp [e])
  | next =>
    rw [coreStep_next hs]
    rcases stepNext_err_cases s with herr | hfail
    · exact .inl herr
    · exact .inr ⟨rfl, hfail⟩

/-- Settles O31: of the two cases of `coreStep_err_cases`, the second is left. -/
theorem onlyFailedReadSetsErr : Obligations.OnlyFailedReadSetsErr := by
  intro s hne
  rcases coreStep_err_cases s with herr | ⟨hs, hp, hread, e⟩
  · exact absurd herr hne
  · rw [e]
    exact ⟨hs, hp, rfl, rfl, rfl, hread⟩

/-! ## A HASH of an unreadable message -/

/-- A full block past the bytes done is within the message, so its end fits the 65 bits of `off` (R37, R174). -/
theorem toNat_off_add_64 {off : BitVec 65} {len : BitVec 64} (h : 64 ≤ len.toNat - off.toNat) :
    (off + 64).toNat = off.toNat + 64 := by
  have hlt := len.isLt
  rw [BitVec.toNat_add]
  simp only [BitVec.reduceToNat]
  omega

/-- If not all of `m + n` bytes can be read and the first `m` can, then the last `n` cannot (R175). -/
theorem readBytes_rest_none {s : State} {a m n : Nat} {bs : List Byte} (hnone : readBytes s a (m + n) = none)
    (hread : readBytes s a m = some bs) : readBytes s (a + m) n = none := by
  simpa [readBytes_append, hread] using hnone

/-- What NEXT reads are the bytes of the message after those done, if the mask of HSTART keeps MSG_ADDR (R173, R174). -/
theorem AtNext.nextBytes_eq {t u : State} {off : BitVec 65} {h : Quad} (hu : AtNext t .data off h u)
    (hbase : t.msgAddr &&& lowmask t.cfg.addrWidth = t.msgAddr) :
    nextBytes u = readBytes t (t.msgAddr.toNat + off.toNat) (min 64 (t.len.toNat - off.toNat)) := by
  obtain ⟨w, m, i, rfl⟩ := hu
  simp only [nextBytes, hbase]
  exact readBytes_congr _ _ fun _ _ => memRead_congr rfl rfl _

/-- A full block that is readable, and the 65 steps that compress it and lead to NEXT again (R174). -/
theorem AtNext.runsTo_full_block {t u : State} {off : BitVec 65} {h : Quad} {bs : List Byte}
    (hu : AtNext t .data off h u) (hrem : 64 ≤ t.len.toNat - off.toNat) (hread : nextBytes u = some bs) :
    ∃ v h', RunsTo 66 u v ∧ AtNext t .data (off + 64) h' v := by
  have hblock : stepNext u = startBlock { u with m := words bs, phase := .data, off := off + 64 } := by
    rw [nextBytes] at hread
    obtain ⟨w, m, i, rfl⟩ := hu
    exact stepNext_full rfl hrem (by rwa [Nat.min_eq_left hrem] at hread)
  obtain ⟨v, hrun, hv, -⟩ := hu.runsTo_block hblock
  exact ⟨v, _, hrun, hv⟩

/-- From NEXT with an unreadable byte of the message to come, the readable full blocks before it lead to the NEXT whose
read fails (R174, R193). -/
theorem AtNext.runsTo_failed {t u : State} {off : BitVec 65} {h : Quad} (hu : AtNext t .data off h u)
    (hbase : t.msgAddr &&& lowmask t.cfg.addrWidth = t.msgAddr)
    (hnone : readBytes t (t.msgAddr.toNat + off.toNat) (t.len.toNat - off.toNat) = none) :
    ∃ n v off' h', 64 * n ≤ t.len.toNat - off.toNat ∧ RunsTo (66 * n) u v ∧ AtNext t .data off' h' v ∧
      stepNext v = raiseBusError v := by
  have hbytes := hu.nextBytes_eq hbase
  have hphase : u.phase = .data := by obtain ⟨w, m, i, rfl⟩ := hu; rfl
  cases hread : nextBytes u with
  | none => exact ⟨0, u, off, h, Nat.zero_le _, ⟨rfl, by simp⟩, hu, stepNext_failed hphase hread⟩
  | some bs =>
    rw [hread] at hbytes
    rcases Nat.lt_or_ge (t.len.toNat - off.toNat) 64 with hrem | hrem
    · rw [Nat.min_eq_right hrem.le, hnone] at hbytes
      cases hbytes
    · rw [Nat.min_eq_left hrem] at hbytes
      have hoff := toNat_off_add_64 hrem
      have haddr : t.msgAddr.toNat + (off + 64).toNat = t.msgAddr.toNat + off.toNat + 64 := by omega
      have hsplit : t.len.toNat - off.toNat = 64 + (t.len.toNat - (off + 64).toNat) := by omega
      have hrest : readBytes t (t.msgAddr.toNat + (off + 64).toNat) (t.len.toNat - (off + 64).toNat) = none := by
        rw [hsplit] at hnone
        rw [haddr]
        exact readBytes_rest_none hnone hbytes.symm
      obtain ⟨v, _, hrun, hv⟩ := hu.runsTo_full_block hrem hread
      obtain ⟨n, x, off', h', hn, hrun', hx, hfail⟩ := hv.runsTo_failed hbase hrest
      refine ⟨n + 1, x, off', h', by omega, ?_, hx, hfail⟩
      rw [Nat.mul_succ, Nat.add_comm]
      exact hrun.trans hrun'
termination_by t.len.toNat - off.toNat

/-- Besides the full blocks, HASH compresses at least one (R161). -/
theorem div_64_le_blockCount (l : Nat) : l / 64 ≤ blockCount l := by
  unfold blockCount
  split <;> omega

/-- Settles O19: HSTART, the full blocks before the first byte that is not readable, and the NEXT that fails to read it;
such a message is not empty, so HSTART latches its address. -/
theorem unreadableMessageEndsWithBus : Obligations.UnreadableMessageEndsWithBus := by
  intro s hb hrange hnone
  have hlen : 0 < s.len.toNat := by
    by_contra hzero
    rw [Nat.eq_zero_of_not_pos hzero] at hnone
    cases hnone
  have hbase : s.msgAddr &&& lowmask s.cfg.addrWidth = s.msgAddr := and_lowmask_eq (by omega)
  have hstart : readBytes (startCommand .hstart s) (s.msgAddr.toNat + 0) (s.len.toNat - 0) = none :=
    hnone ▸ readBytes_congr _ _ fun _ _ => memRead_congr rfl rfl _
  obtain ⟨u, hrun, hu⟩ := runsTo_hstart (startCommand_seq .hstart s)
  obtain ⟨n, v, off, h, hn, hrun', hv, hfail⟩ := hu.runsTo_failed hbase hstart
  have hhost := hostSideKept_coreRun (1 + 66 * n + 1) (hostSideKept_startCommand .hstart s)
  have hend : coreRun (1 + 66 * n + 1) (startCommand .hstart s) = raiseBusError v := by
    rw [coreRun_succ_last, (hrun.trans hrun').1, coreStep_next, hfail]
    obtain ⟨w, m, i, rfl⟩ := hv
    rfl
  have hcount : 1 + 66 * n + 1 ≤ 2 + 66 * blockCount s.len.toNat := by
    have hblocks := div_64_le_blockCount s.len.toNat
    have hread : 64 * n ≤ s.len.toNat := hn
    omega
  refine ⟨startCommand .hstart s, 1 + 66 * n + 1, exec_hash_inRange hb hrange, hcount, ?_⟩
  rw [hend] at hhost ⊢
  obtain ⟨w, m, i, rfl⟩ := hv
  exact ⟨rfl, rfl, rfl, rfl, rfl, rfl, rfl, hhost⟩

end Sys2Proof.Machine
end

section
/-! PROOFS. The host's window writes and BWERR: which steps are such a write, and what it does to BWERR
(spec/20_memory.md R55, R56; spec/60_exceptions.md R195). -/

namespace Sys2Proof.Machine

/-! ## The host's write as a step -/

/-- If the host moves next, the step is the host's, in the state without its turn. -/
theorem step_of_hostTurn {s u : State} (h : hostTurn s = some u) :
    step s = hostStep u ∧ ∃ rest, u = { s with turns := rest } := by
  unfold hostTurn at h
  split at h
  next ht =>
    split at h
    next hs =>
      obtain rfl := Option.some.inj h
      exact ⟨by simp only [step, scheduledStep, ht, eagerStep, if_pos hs], s.turns, rfl⟩
    next => cases h
  next rest ht =>
    obtain rfl := Option.some.inj h
    exact ⟨by simp only [step, scheduledStep, ht, turnStep], rest, rfl⟩
  all_goals cases h

theorem hostTurn_eager {s : State} (ht : s.turns = []) (hs : s.seq = .idle) : hostTurn s = some s := by
  simp only [hostTurn, ht, if_pos hs]

theorem hostTurn_host {s : State} {rest : List Turn} (ht : s.turns = .host :: rest) :
    hostTurn s = some { s with turns := rest } := by
  simp only [hostTurn, ht]

/-- The host's step on a line that writes the window is that write (R86). -/
theorem hostStep_of_lineWrite {s : State} {op : HostOp} {off : BitVec 7} {v : Word}
    (hop : s.hostProg[s.hostPc]? = some op) (hline : lineWrite s.cfg op = some (off, v)) :
    hostStep s = busWrite off v (advanceHost s) := by
  simp only [hostStep, hop]
  cases op with
  | wr r x =>
    obtain ⟨rfl, rfl⟩ : Reg.offset r = off ∧ x = v := by simpa [lineWrite] using hline
    rfl
  | busWr addr width x =>
    cases hoff : supportedOffset s.cfg addr width with
    | none => simp [lineWrite, hoff] at hline
    | some o =>
      obtain ⟨rfl, rfl⟩ : o = off ∧ x = v := by simpa [lineWrite, hoff] using hline
      simp only [hostOpStep, rawWrite, advanceHost_cfg, hoff]
  | _ => cases hline

/-- A line writes at a multiple of 4 alone (R51). -/
theorem lineWrite_aligned {c : Config} {op : HostOp} {off : BitVec 7} {v : Word}
    (h : lineWrite c op = some (off, v)) : off.toNat % 4 = 0 := by
  cases op with
  | wr r x =>
    obtain ⟨rfl, -⟩ : Reg.offset r = off ∧ x = v := by simpa [lineWrite] using h
    exact Reg.offset_aligned r
  | busWr addr width x =>
    simp only [lineWrite, supportedOffset] at h
    split at h
    next o ho =>
      split at ho
      next hsup =>
        obtain rfl := Option.some.inj ho
        obtain ⟨rfl, -⟩ := Prod.mk.inj (Option.some.inj h)
        rw [BitVec.toNat_ofNat]
        omega
      next => cases ho
    next => cases h
  | _ => cases h

/-- The step that `HostWrites` speaks of is the write, at a multiple of 4, with BUSY and BWERR as they were. -/
theorem HostWrites.step_eq {s u : State} {off : BitVec 7} {v : Word} (h : HostWrites s off v u) :
    step s = busWrite off v u ∧ u.busy = s.busy ∧ u.bwerr = s.bwerr ∧ off.toNat % 4 = 0 := by
  obtain ⟨u', op, hturn, hop, hline, rfl⟩ := h
  obtain ⟨hstep, rest, rfl⟩ := step_of_hostTurn hturn
  exact ⟨hstep.trans (hostStep_of_lineWrite hop hline), rfl, rfl, lineWrite_aligned hline⟩

/-- The host's step, if it is the host that moves next, is such a write or leaves STATUS alone. -/
theorem hostStep_bwerr {s u t : State} (hturn : hostTurn s = some u) (h : hostStep u = .next t) :
    t.bwerr = s.bwerr ∨ ∃ off v u', HostWrites s off v u' ∧ busWrite off v u' = .next t := by
  obtain ⟨-, rest, rfl⟩ := step_of_hostTurn hturn
  rcases hostStep_cases h with ⟨_, _, _, -, rfl⟩ | ⟨op, off, v, hop, hline, hw⟩
  · exact .inl rfl
  · exact .inr ⟨off, v, _, ⟨_, op, hturn, hop, hline, rfl⟩, hw⟩

theorem platformStore_bwerr (a : Nat) (b : Option Byte) (s : State) : (platformStore a b s).bwerr = s.bwerr := by
  obtain ⟨_, e⟩ := platformStore_cases a b s
  rw [e]

theorem platformReveal_bwerr (n : Nat) (s : State) : (platformReveal n s).bwerr = s.bwerr := by
  rcases platformReveal_cases n s with e | ⟨_, _, -, e⟩ <;> rw [e]

/-- No step but a window write of the host and the reset input writes BWERR (R195, R220). -/
theorem step_bwerr_cases {s t : State} (h : step s = .next t) :
    t.bwerr = s.bwerr ∨ (t.bwerr = false ∧ ∃ rest, s.turns = .reset :: rest) ∨
    ∃ off v u, HostWrites s off v u ∧ busWrite off v u = .next t := by
  rcases step_cases h with ⟨ht, hs, hh⟩ | ⟨-, -, rfl⟩ | ⟨rest, -, rfl⟩ | ⟨rest, ht, hh⟩ | ⟨rest, ht, rfl⟩ |
    ⟨a, b, rest, -, rfl⟩ | ⟨a, b, rest, -, rfl⟩ | ⟨n, rest, -, rfl⟩
  · exact (hostStep_bwerr (hostTurn_eager ht hs) hh).imp_right .inr
  · exact .inl (coreStep_bwerr s)
  · exact .inl (coreStep_bwerr _)
  · exact (hostStep_bwerr (hostTurn_host ht) hh).imp_right .inr
  · exact .inr (.inl ⟨rfl, rest, ht⟩)
  · exact .inl (platformStore_bwerr a b _)
  · exact .inl rfl
  · exact .inl (platformReveal_bwerr n _)

/-! ## What a write does to BWERR -/

/-- A write to CMD while BUSY = 0 clears BWERR: the word is rejected, or its command is started or rejected (R153). -/
theorem takeCommand_clears_bwerr {s : State} (hb : s.busy = false) (v : Word) :
    ∃ t, takeCommand v s = .next t ∧ t.bwerr = false := by
  cases hd : decode v with
  | error e => exact ⟨_, takeCommand_illegal (by simp [hd]) s, rfl⟩
  | ok i =>
    obtain ⟨t, ht⟩ := exec_answers i s
    refine ⟨t, (takeCommand_ok hd s).trans ht, ?_⟩
    rcases exec_cases ht with ⟨hbusy, -⟩ | ⟨-, q, -, -, -, -, -, rfl⟩ | ⟨-, -, -, rfl⟩
    · simp [hb] at hbusy
    · rfl
    · rfl

theorem Reg.assign_bwerr (r : Reg) (v : Word) (s : State) : (Reg.assign v s r).bwerr = s.bwerr := by
  cases r <;> rfl

/-- A write while BUSY = 0 to another offset than CMD's keeps BWERR (R55). -/
theorem busWrite_idle_bwerr {off : BitVec 7} {v : Word} {s t : State} (hb : s.busy = false)
    (hcmd : Reg.ofOffset off ≠ some .cmd) (h : busWrite off v s = .next t) : t.bwerr = s.bwerr := by
  cases hoff : Reg.ofOffset off with
  | none =>
    obtain rfl := Host.Outcome.next.inj ((busWrite_none hoff hb v).symm.trans h)
    rfl
  | some r =>
    have hr : r ≠ .cmd := by
      rintro rfl
      exact hcmd hoff
    obtain rfl := Host.Outcome.next.inj ((busWrite_assign hoff hb hr v).symm.trans h)
    exact Reg.assign_bwerr r v s

/-- A write of a host's line that changes BWERR: dropped while BUSY = 1, which sets it, or to CMD while BUSY = 0, which
clears it. -/
theorem HostWrites.bwerr_cases {s u t : State} {off : BitVec 7} {v : Word} (hw : HostWrites s off v u)
    (h : busWrite off v u = .next t) (hne : t.bwerr ≠ s.bwerr) :
    (s.busy = true ∧ t = dropWrite u) ∨
    (s.busy = false ∧ off = 0x00 ∧ takeCommand v u = .next t ∧ t.bwerr = false) := by
  obtain ⟨-, hbusy, hbwerr, halign⟩ := hw.step_eq
  cases hb : s.busy with
  | true =>
    rw [busWrite_busy (hbusy.trans hb)] at h
    exact .inl ⟨rfl, (Host.Outcome.next.inj h).symm⟩
  | false =>
    by_cases hcmd : Reg.ofOffset off = some .cmd
    · obtain rfl : off = Reg.offset .cmd := Reg.offset_of_ofOffset halign hcmd
      rw [busWrite_cmd (hbusy.trans hb)] at h
      obtain ⟨t', ht', hclear⟩ := takeCommand_clears_bwerr (hbusy.trans hb) v
      obtain rfl := Host.Outcome.next.inj (ht'.symm.trans h)
      exact .inr ⟨rfl, rfl, h, hclear⟩
    · exact absurd ((busWrite_idle_bwerr (hbusy.trans hb) hcmd h).trans hbwerr) hne

/-- Settles O36: a step that changes BWERR is the reset input or a write of the host's line, and BUSY says which
of the two a write does. -/
theorem bwerrIsSticky : Obligations.BwerrIsSticky := by
  refine ⟨fun s t h => ⟨fun hold hnew => ?set, fun hold hnew => ?cleared⟩, fun s u off v hw => ?writes⟩
  case set =>
    rcases step_bwerr_cases h with hsame | ⟨hclear, -⟩ | ⟨off, v, u, hw, hbus⟩
    · simp [hold, hnew] at hsame
    · simp [hnew] at hclear
    · rcases hw.bwerr_cases hbus (by simp [hold, hnew]) with ⟨hb, e⟩ | ⟨-, -, -, hclear⟩
      · exact ⟨hb, off, v, u, hw, e⟩
      · simp [hnew] at hclear
  case cleared =>
    rcases step_bwerr_cases h with hsame | ⟨-, hreset⟩ | ⟨off, v, u, hw, hbus⟩
    · simp [hold, hnew] at hsame
    · exact .inl hreset
    · rcases hw.bwerr_cases hbus (by simp [hold, hnew]) with ⟨-, rfl⟩ | ⟨hb, rfl, htake, -⟩
      · simp at hnew
      · exact .inr ⟨hb, v, u, hw, htake⟩
  case writes =>
    obtain ⟨hstep, hbusy, -, -⟩ := hw.step_eq
    refine ⟨fun hb => hstep.trans (busWrite_busy (hbusy.trans hb) off v), ?_⟩
    rintro hb rfl
    exact ⟨hstep.trans (busWrite_cmd (hbusy.trans hb) v), takeCommand_clears_bwerr (hbusy.trans hb) v⟩

end Sys2Proof.Machine
end

section
/-! PROOFS. The one fault of the machine, a read of STATUS that finds a reserved ERR code, is raised by no step of a
state of the invariant (spec/93_implementation_defined.md U6; spec/60_exceptions.md R190). -/

namespace Sys2Proof.Machine

/-! ## Window accesses -/

theorem busRead_status_reserved {s : State} (h : 4 ≤ s.err.toNat) :
    busRead (Reg.offset .status) s = .fault (.reservedErrCode s.err) := by
  have herr : errLegal s.err = false := decide_eq_false (by omega)
  simp [busRead, herr]

/-- With a legal ERR code, every read answers (R53, R54). -/
theorem busRead_answers {s : State} (herr : errLegal s.err = true) (off : BitVec 7) : ∃ r, busRead off s = .next r := by
  cases hoff : Reg.ofOffset off with
  | none => exact ⟨_, busRead_none s hoff⟩
  | some r =>
    by_cases hdrawn : s.busy = true ∧ Reg.drawnWhileBusy r = true
    · exact ⟨_, busRead_drawn hoff hdrawn.1 hdrawn.2⟩
    · exact ⟨_, busRead_value hoff (fun _ => herr) fun hb => by simpa [hb] using hdrawn⟩

/-- Every write answers (R55, R56). -/
theorem busWrite_answers (off : BitVec 7) (v : Word) (s : State) : ∃ t, busWrite off v s = .next t := by
  cases hb : s.busy with
  | true => exact ⟨_, busWrite_busy hb off v⟩
  | false =>
    cases hoff : Reg.ofOffset off with
    | none => exact ⟨_, busWrite_none hoff hb v⟩
    | some r =>
      by_cases hr : r = .cmd
      · subst hr
        obtain ⟨t, ht, -⟩ := takeCommand_clears_bwerr hb v
        exact ⟨t, by simp [busWrite, hb, hoff, ht]⟩
      · exact ⟨_, busWrite_assign hoff hb hr v⟩

/-! ## Steps -/

theorem hostRead_ne_fault {s : State} (herr : errLegal s.err = true) (off : BitVec 7) (t : Nat) (f : Fault) :
    hostRead off t s ≠ .fault f := by
  obtain ⟨r, hr⟩ := busRead_answers herr off
  rw [hostRead_of_busRead hr]
  simp

theorem busWrite_ne_fault (off : BitVec 7) (v : Word) (s : State) (f : Fault) : busWrite off v s ≠ .fault f := by
  obtain ⟨t, ht⟩ := busWrite_answers off v s
  simp [ht]

/-- A host line may be refused, but with a legal ERR code it does not fault. -/
theorem hostOpStep_ne_fault {s : State} (herr : errLegal s.err = true) (op : HostOp) (f : Fault) :
    hostOpStep op s ≠ .fault f := by
  cases op with
  | label l => simp [hostOpStep]
  | wr r v => exact busWrite_ne_fault _ v _ f
  | rd r t => exact hostRead_ne_fault (s := advanceHost s) herr _ t f
  | bnz t mask l =>
    simp only [hostOpStep, hostBranch]
    split
    · simp
    · split <;> simp
  | halt => simp [hostOpStep]
  | busWr addr width v =>
    simp only [hostOpStep, rawWrite]
    split
    · exact busWrite_ne_fault _ v _ f
    · split <;> simp
  | busRd addr width t =>
    simp only [hostOpStep, rawRead]
    split
    · exact hostRead_ne_fault (s := advanceHost s) herr _ t f
    · split <;> simp

theorem hostStep_ne_fault {s : State} (herr : errLegal s.err = true) (f : Fault) : hostStep s ≠ .fault f := by
  unfold hostStep
  split
  · simp
  · exact hostOpStep_ne_fault herr _ f

/-- Of the agents the host alone can stop the machine. -/
theorem step_ne_fault {s : State} (herr : errLegal s.err = true) (f : Fault) : step s ≠ .fault f := by
  unfold step scheduledStep
  split
  · unfold eagerStep
    split
    · exact hostStep_ne_fault herr f
    · simp
  next turn rest _ =>
    cases turn with
    | host => exact hostStep_ne_fault (s := { s with turns := rest }) herr f
    | _ => simp [turnStep]

/-- Settles O42: the invariant's ERR is legal, so no read finds a reserved code. -/
theorem reservedErrCodeFaults : Obligations.ReservedErrCodeFaults :=
  ⟨fun _ h => busRead_status_reserved h, fun _ f hi => step_ne_fault (decide_eq_true hi.errLegal) f⟩

end Sys2Proof.Machine
end

section
/-! PROOFS. What the reset input leaves: the values of R42 and an idle core, the rest of the machine as it was
(spec/70_reset_and_hazards.md R220). -/

namespace Sys2Proof.Machine

theorem resetMachine_m_get (s : State) (n : Fin 16) : (resetMachine s).m.get n = 0 := by
  rw [resetMachine_m, Vector.get_eq_getElem, Vector.getElem_replicate]

/-- The reset input leaves no command running: the core is idle after it, and an idle core takes no step. -/
theorem coreRun_resetMachine (n : Nat) (s : State) : coreRun n (resetMachine s) = resetMachine s :=
  idleCoreTakesNoStep _ (resetMachine_seq s) n

/-- Settles O6: each register has its reset value, the core stays idle, and what is not MD5CORE's own is kept. -/
theorem resetInputAbandonsTheCommand : Obligations.ResetInputAbandonsTheCommand := fun s =>
  ⟨resetMachine_h s, resetMachine_m_get s, resetMachine_msgAddr s, resetMachine_len s, resetMachine_busy s,
    resetMachine_err s, resetMachine_bwerr s, resetMachine_seq s, fun n => coreRun_resetMachine n s,
    resetMachine_cfg s, resetMachine_msgMem s, resetMachine_pendingStores s, resetMachine_hostProg s,
    resetMachine_hostPc s, resetMachine_hostVars s, resetMachine_turns s⟩

end Sys2Proof.Machine
end

section
/-! PROOFS. The schedule and the taking of a command by a step: who moves, the run of the core with no turn left, and the
host's line that writes CMD (spec/10_state.md R20; spec/42_driver.md R153; spec/95_test_vectors.md section 6). -/

namespace Sys2Proof.Machine

/-! ## Who moves -/

theorem step_of_turns {s : State} {turn : Turn} {rest : List Turn} (h : s.turns = turn :: rest) :
    step s = turnStep turn { s with turns := rest } := by
  simp only [step, scheduledStep, h]

theorem step_eager_core {s : State} (ht : s.turns = []) (hs : s.seq ≠ .idle) : step s = .next (coreStep s) := by
  simp only [step, scheduledStep, ht, eagerStep, if_neg hs]

theorem step_eager_host {s : State} (ht : s.turns = []) (hs : s.seq = .idle) : step s = hostStep s :=
  (step_of_hostTurn (hostTurn_eager ht hs)).1

/-- Settles O7: the head of the turn list by `turnStep`, the empty list by the eager schedule. -/
theorem turnNamesTheAgent : Obligations.TurnNamesTheAgent :=
  ⟨fun _ ht hs => step_eager_core ht hs, fun _ ht hs => step_eager_host ht hs, fun _ _ h => step_of_turns h,
    fun _ _ h => step_of_turns h, fun _ _ h => step_of_turns h, fun _ _ _ _ h => step_of_turns h,
    fun _ _ _ _ h => step_of_turns h, fun _ _ _ h => step_of_turns h⟩

/-! ## The eager run -/

theorem run_succ_of_step {s t : State} (h : step s = .next t) (n : Nat) :
    Host.Core.run Sys2Proof.core (n + 1) s = Host.Core.run Sys2Proof.core n t := by
  have hcore : Sys2Proof.core.step s = .next t := h
  simp only [Host.Core.run, hcore]

/-- Settles O22, by induction on the number of steps: the first is a core step, after which there is still no turn left. -/
theorem eagerRunIsTheCoreRun : Obligations.EagerRunIsTheCoreRun := by
  intro n
  induction n with
  | zero => exact fun _ _ _ => rfl
  | succ n ih =>
    intro s ht hbusy
    have hfirst : s.seq ≠ .idle := hbusy 0 (Nat.zero_lt_succ n)
    have hrest (k : Nat) (hk : k < n) : (coreRun k (coreStep s)).seq ≠ .idle := hbusy (k + 1) (Nat.succ_lt_succ hk)
    rw [run_succ_of_step (step_eager_core ht hfirst), ih (coreStep s) ((coreStep_turns s).trans ht) hrest, coreRun_succ]

/-! ## The command that a step takes -/

/-- A write of a command's word to CMD is the command, which while BUSY = 1 is the dropped write (R153, R56). -/
theorem busWrite_cmd_of_decode {v : Word} {i : Instr} (hd : decode v = .ok i) (s : State) :
    busWrite (Reg.offset .cmd) v s = exec i s := by
  cases hb : s.busy with
  | true => rw [busWrite_busy hb, exec_busy hb]
  | false => rw [busWrite_cmd hb, takeCommand_ok hd]

/-- If the host moves next and its line writes a command's word to CMD, the step is that command (R153). -/
theorem step_of_cmd_line {s u : State} {v : Word} {i : Instr} (hturn : hostTurn s = some u)
    (hop : s.hostProg[s.hostPc]? = some (.wr .cmd v)) (hd : decode v = .ok i) :
    step s = exec i { u with hostPc := s.hostPc + 1 } := by
  have hw : HostWrites s (Reg.offset .cmd) v { u with hostPc := s.hostPc + 1 } := ⟨u, _, hturn, hop, rfl, rfl⟩
  rw [hw.step_eq.1, busWrite_cmd_of_decode hd]

/-- The line that `placeLine` places is the host's next line. -/
theorem placeLine_next_line (op : HostOp) (s : State) :
    (placeLine op s).hostProg[(placeLine op s).hostPc]? = some op := by
  simp [placeLine]

/-- Settles O8: in each of the three states the host moves next and its line writes the word to CMD. -/
theorem stepRunsTheDecodedCommand : Obligations.StepRunsTheDecodedCommand := by
  refine ⟨fun s v i rest ht hop hd => ?turn, fun s v i ht hs hop hd => ?eager, fun s w i hd => ?placed⟩
  case turn => exact step_of_cmd_line (hostTurn_host ht) hop hd
  case eager => exact step_of_cmd_line (hostTurn_eager ht hs) hop hd
  case placed =>
    have hword : BitVec.ofNat 32 (w % 2 ^ 32) = BitVec.ofNat 32 w := BitVec.eq_of_toNat_eq (by simp)
    have hop := placeLine_next_line (.wr .cmd (BitVec.ofNat 32 w)) s
    rw [State.withFetchWord, hword]
    exact step_of_cmd_line (hostTurn_host rfl) hop hd

end Sys2Proof.Machine
end

section
/-! PROOFS. The broken message duty: what marks it, and what becomes of a marked HASH (spec/20_memory.md R67;
spec/93_implementation_defined.md U4; log 9, log 26). -/

namespace Sys2Proof.Machine

/-! ## The mark -/

/-- The addresses of the message (R26). -/
theorem inMessage_iff (s : State) (a : Nat) :
    inMessage s a = true ↔ s.msgAddr.toNat ≤ a ∧ a < s.msgAddr.toNat + s.len.toNat := by
  simp [inMessage]

/-- A change at once marks the duty if it changes what a byte of the running HASH's message reads as (R67). -/
theorem platformStore_msgDisturbed (a : Nat) (b : Option Byte) (s : State) :
    (platformStore a b s).msgDisturbed = (s.msgDisturbed ||
      (hashRunning s && inMessage s a && memRead (platformStore a b s) a != memRead s a)) := by
  have hread : memRead (platformStore a b s) a = memRead { s with msgMem := Memory.set s.cfg.addrWidth a b s.msgMem } a :=
    memRead_congr (by simp) (by simp) a
  rw [hread, platformStore]
  split
  next hmark => simp [hmark]
  next hkept => simp [hkept]

/-! ## The end of a marked HASH -/

/-- NEXT with all blocks done and the message duty broken (R174, fourth case; U4). -/
theorem stepNext_last_disturbed {s : State} (hp : s.phase = .last) (hbroken : s.msgDisturbed = true) :
    stepNext s = endCommand (drawResults s) := by
  simp only [stepNext, hp, nextDone, if_pos hbroken]

/-- Settles O38: the marks of the two platform paths and of the start of a HASH, and the state of the last NEXT step,
written out. -/
theorem brokenMessageDutyFreesTheResults : Obligations.BrokenMessageDutyFreesTheResults := by
  refine ⟨fun s a b => ?atOnce, fun s a b => ?pending, fun s t hb hrange ht => ?started, fun s hs hp hbroken => ?ended⟩
  case atOnce => simp [platformStore_msgDisturbed, inMessage_iff, and_assoc]
  case pending => simp [inMessage_iff]
  case started =>
    obtain rfl := Host.Outcome.next.inj ((exec_hash_inRange hb hrange).symm.trans ht)
    simp [staleMessage_iff]
  case ended =>
    rw [coreStep_next hs, stepNext_last_disturbed hp hbroken]
    rfl

/-- Settles O59: the started HASH is marked and runs to its last step like any other; that step draws the results. -/
theorem hashOfStaleMessageFreesTheResults : Obligations.HashOfStaleMessageFreesTheResults := by
  intro s hb hrange hread hpending
  obtain ⟨msg, hmsg⟩ := Option.ne_none_iff_exists'.mp hread
  have hholds : HoldsMessage s msg := ⟨hrange, hmsg⟩
  have hhost := hostSideKept_coreRun (2 + 66 * blockCount s.len.toNat) (hostSideKept_startCommand .hstart s)
  obtain ⟨u, ⟨hrun, -⟩, -, hu, -⟩ := (hholds.startCommand .hstart).runsTo_end rfl
  have hbroken : (startCommand .hstart s).msgDisturbed = true := by
    simpa using (staleMessage_iff s).mpr hpending
  have hend : stepNext u = endCommand (drawResults u) := by
    obtain ⟨w, m, i, rfl⟩ := hu
    exact stepNext_last_disturbed rfl hbroken
  rw [startCommand_len, hend] at hrun
  rw [hrun] at hhost
  refine ⟨startCommand .hstart s, _, exec_hash_inRange hb hrange, hrun, ?_⟩
  obtain ⟨w, m, i, rfl⟩ := hu
  exact ⟨rfl, rfl, rfl, rfl, rfl, rfl, rfl, hhost⟩

end Sys2Proof.Machine
end
